-- ==== Sys2Proof/Word.lean ====
section
/-! DEFINITION. The words the block handles (R8): bytes on the wire, 16-bit window bounds and percent
operands, 12-bit dimensions, 24-bit pixels and 32-bit request words. -/

namespace Sys2Proof

/-- An unsigned 8-bit value (R8 `byte`). -/
abbrev Byte := BitVec 8

/-- An unsigned 16-bit value (R8 `u16`): a window bound, or the raw PCT field of BRIGHT. -/
abbrev Half := BitVec 16

/-- A width, height, column count or row count field (R27, R84, R87: 12 bits, which is
this hardware's `DIM_BITS`).  Assumption log 21. -/
abbrev Dim := BitVec 12

/-- One element of the pixel source (R89). -/
abbrev Pixel := BitVec 24

/-- A host request word (R81). -/
abbrev ReqWord := BitVec 32

end Sys2Proof
end

