-- ==== Sys2Proof/Config.lean ====
section
/-! DEFINITION. What one block fixes before block reset (R6, R32): the static configuration, with the
values the spec gives this hardware; and the free values, opaque constants that nothing can evaluate. -/

namespace Sys2Proof

/-- The environment's answer to one external action (R9 `act`): a draw. -/
inductive Answer where
  | ok
  | fail
  deriving DecidableEq, Repr, Inhabited

/-- A byte list that is not empty: the shape R175 gives the parameters of thirteen init commands. -/
structure Bytes1 where
  head : Byte
  tail : List Byte
  deriving DecidableEq, Repr, Inhabited

/-- The 17 commands of the init sequence (R174), named by their opcode. -/
inductive InitOp where
  | i36 | i3A | iB2 | iB7 | iBB | iC0 | iC2 | iC3 | iC4 | iC6 | iD0 | iD6 | iE0 | iE1 | iE4 | i21 | i11
  deriving DecidableEq, Repr

/-- `InitParams` (R6, R53, R175): the parameter bytes of the init commands that have any.  The constraints
of R175 hold by the fields' types: 14 bytes for 0xE0 and 0xE1, at least one byte for the thirteen others,
and no field at all for 0x21 and 0x11. -/
structure InitParams where
  p36 : Bytes1
  p3A : Bytes1
  pB2 : Bytes1
  pB7 : Bytes1
  pBB : Bytes1
  pC0 : Bytes1
  pC2 : Bytes1
  pC3 : Bytes1
  pC4 : Bytes1
  pC6 : Bytes1
  pD0 : Bytes1
  pD6 : Bytes1
  pE0 : Vector Byte 14
  pE1 : Vector Byte 14
  pE4 : Bytes1
  deriving DecidableEq, Repr, Inhabited

/-- The static configuration of one block (R6, R32).  No request writes it. -/
structure Config where
  /-- `CHUNK`: most bytes in one SPI transaction of a data block. -/
  chunk : Nat
  /-- `OFFSET`: added to one axis of every window. -/
  offset : Nat
  /-- `T_RST_MS`. -/
  tRstMs : Nat
  /-- `T_WAKE_MS`. -/
  tWakeMs : Nat
  /-- `MAC_LANDSCAPE`. -/
  macLandscape : Byte
  /-- `MAC_PORTRAIT`. -/
  macPortrait : Byte
  /-- `SPI_MAX_HZ`, passed to the transport. -/
  spiMaxHz : Nat
  /-- `SPI_MODE`, passed to the transport. -/
  spiMode : Nat
  /-- `PWM_HZ`. -/
  pwmHz : Nat
  /-- `PIN_RST`. -/
  pinRst : Nat
  /-- `PIN_DC`. -/
  pinDc : Nat
  /-- `PIN_BL`. -/
  pinBl : Nat
  /-- `DIM_BITS`: the width of the request fields WIDTH, HEIGHT, COLS and ROWS.  Assumption log 21. -/
  dimBits : Nat
  /-- `InitParams`. -/
  initParams : InitParams
  deriving DecidableEq, Repr

/-- The init-sequence parameter bytes of this hardware: OPEN (R6, R175), so nothing says which they are.
Assumption log 3. -/
opaque Config.openInitParams : InitParams

/-- Any assignment of pairwise distinct pin identifiers: OPEN (R6, D40).  A permutation sends 0, 1 and 2
to three distinct numbers, any three.  Assumption log 4. -/
opaque Config.openPins : Equiv.Perm Nat

/-- The environment's answer to the n-th action that no listed answer covers: a free value (R253, D41).
Assumption log 7. -/
opaque Config.freeAnswer : Nat → Answer

/-- What the n-th pixel read returns when the host gave no stable pixel there: a free value (R52, D31).
Assumption log 9. -/
opaque Config.freePixel : Nat → Pixel

/-- The configuration of this hardware: the "value" column of R6, and the open parameters.
Assumption logs 2, 3 and 4. -/
def Config.source : Config where
  chunk := 4096
  offset := 20
  tRstMs := 10
  tWakeMs := 100
  macLandscape := 0x70
  macPortrait := 0x00
  spiMaxHz := 40000000
  spiMode := 0
  pwmHz := 1000
  pinRst := Config.openPins 0
  pinDc := Config.openPins 1
  pinBl := Config.openPins 2
  dimBits := 12
  initParams := Config.openInitParams

end Sys2Proof
end

