-- ==== Sys2Proof/Syntax.lean ====
section
/-! DEFINITION. The block's instructions: the five host requests (R82) and the 21 controller commands it
puts on the wire (R96).  One constructor for each row of spec/opcode_table.json. -/

namespace Sys2Proof

/-- Panel orientation (R13, R26): 0 = Landscape, 1 = Portrait. -/
inductive Orientation where
  | landscape
  | portrait
  deriving DecidableEq, Repr, Inhabited

/-- One instruction.  The requests carry the operand fields of R88.  A controller command is "a one-byte
opcode plus an ordered sequence of zero or more one-byte parameters" (R13, R95): its constructor names the
opcode and holds the parameters, as the four bytes' two 16-bit bounds for 0x2A and 0x2B (R133). -/
inductive Instr where
  /-- RESET (R171): the three-edge panel reset. -/
  | reset
  /-- INIT (R173): orientation, panel width and panel height. -/
  | init (o : Orientation) (width height : Dim)
  /-- BRIGHT (R177): the raw PCT field, two's complement. -/
  | bright (pct : Half)
  /-- CLEAR (R179). -/
  | clear
  /-- BLIT (R180): pixel buffer columns and rows. -/
  | blit (cols rows : Dim)
  /-- CMD_36 (R211): memory access control (MAC), with its parameter bytes. -/
  | cmd36 (ps : List Byte)
  /-- CMD_3A (R212): pixel format, with its parameter bytes. -/
  | cmd3A (ps : List Byte)
  /-- CMD_B2 (R213): porch timing, with its parameter bytes. -/
  | cmdB2 (ps : List Byte)
  /-- CMD_B7 (R214): gate control, with its parameter bytes. -/
  | cmdB7 (ps : List Byte)
  /-- CMD_BB (R215): VCOM voltage, with its parameter bytes. -/
  | cmdBB (ps : List Byte)
  /-- CMD_C0 (R216): power/LCM control, with its parameter bytes. -/
  | cmdC0 (ps : List Byte)
  /-- CMD_C2 (R217): power/LCM control, with its parameter bytes. -/
  | cmdC2 (ps : List Byte)
  /-- CMD_C3 (R218): power/LCM control, with its parameter bytes. -/
  | cmdC3 (ps : List Byte)
  /-- CMD_C4 (R219): power/LCM control, with its parameter bytes. -/
  | cmdC4 (ps : List Byte)
  /-- CMD_C6 (R220): power/LCM control, with its parameter bytes. -/
  | cmdC6 (ps : List Byte)
  /-- CMD_D0 (R221): power control, with its parameter bytes. -/
  | cmdD0 (ps : List Byte)
  /-- CMD_D6 (R222): RGB interface control, with its parameter bytes. -/
  | cmdD6 (ps : List Byte)
  /-- CMD_E0 (R223): positive gamma correction, with its parameter bytes. -/
  | cmdE0 (ps : List Byte)
  /-- CMD_E1 (R224): negative gamma correction, with its parameter bytes. -/
  | cmdE1 (ps : List Byte)
  /-- CMD_E4 (R225): power mode, with its parameter bytes. -/
  | cmdE4 (ps : List Byte)
  /-- CMD_21 (R226): display inversion, no parameters. -/
  | cmd21
  /-- CMD_11 (R227): sleep-out/wake, no parameters. -/
  | cmd11
  /-- CMD_29 (R228): display on, no parameters. -/
  | cmd29
  /-- CMD_2A (R229): column address set, with the first and last column. -/
  | cmd2A (c0 c1 : Half)
  /-- CMD_2B (R230): row address set, with the first and last row. -/
  | cmd2B (r0 r1 : Half)
  /-- CMD_2C (R231): memory write, no parameters. -/
  | cmd2C
  deriving DecidableEq, Repr

end Sys2Proof
end

