-- ==== Sys2Proof/WellFormed.lean ====
section
/-! DEFINITION. Which configurations give a block (R7), and which instructions are ones the block can issue
(R96, R175). -/

namespace Sys2Proof

/-- R7: the constraints a static configuration must satisfy.  `T_RST_MS ≥ 0`, `T_WAKE_MS ≥ 0` and the two MAC
values being bytes hold by the fields' types.  A `DIM_BITS` other than the 12 bits that R27, R84 and R87 give the
dimension registers and request fields is refused too: the spec lays out no other (assumption log 21). -/
def Config.wf (c : Config) : Bool :=
  decide (2 ≤ c.chunk) && decide (c.chunk % 2 = 0) &&
  decide (c.offset + (2 ^ c.dimBits - 2) ≤ 0xFFFF) && decide (c.dimBits = 12) &&
  decide (0 < c.spiMaxHz) && decide (0 < c.pwmHz) &&
  decide (c.pinRst ≠ c.pinDc) && decide (c.pinRst ≠ c.pinBl) && decide (c.pinDc ≠ c.pinBl)

/-- The parameter counts of the controller commands (R96, R175): 14 for the two gamma tables, at least one
for the thirteen other init commands with parameters; the other commands' counts are in their constructors.
A request is well formed for every value of its fields: out-of-range operands are found when it runs (R91). -/
def Instr.wf : Instr → Bool
  | .reset => true
  | .init _ _ _ => true
  | .bright _ => true
  | .clear => true
  | .blit _ _ => true
  | .cmd36 ps => decide (1 ≤ ps.length)
  | .cmd3A ps => decide (1 ≤ ps.length)
  | .cmdB2 ps => decide (1 ≤ ps.length)
  | .cmdB7 ps => decide (1 ≤ ps.length)
  | .cmdBB ps => decide (1 ≤ ps.length)
  | .cmdC0 ps => decide (1 ≤ ps.length)
  | .cmdC2 ps => decide (1 ≤ ps.length)
  | .cmdC3 ps => decide (1 ≤ ps.length)
  | .cmdC4 ps => decide (1 ≤ ps.length)
  | .cmdC6 ps => decide (1 ≤ ps.length)
  | .cmdD0 ps => decide (1 ≤ ps.length)
  | .cmdD6 ps => decide (1 ≤ ps.length)
  | .cmdE0 ps => decide (ps.length = 14)
  | .cmdE1 ps => decide (ps.length = 14)
  | .cmdE4 ps => decide (1 ≤ ps.length)
  | .cmd21 => true
  | .cmd11 => true
  | .cmd29 => true
  | .cmd2A _ _ => true
  | .cmd2B _ _ => true
  | .cmd2C => true

end Sys2Proof
end

