-- ==== Sys2Proof/Decode.lean ====
section
/-! DEFINITION. The two encodings of R80: the decoder of request words (R90), the reading of a controller
command from its wire bytes (R94, R95), and the encoder of both. -/

namespace Sys2Proof

/-- Why an encoding is no instruction. -/
inductive DecodeReject where
  /-- OP is 0x0 or 0x6..0xF (R91). -/
  | undefinedOperation
  /-- A reserved bit is set under a defined OP (R91). -/
  | reservedBitsSet
  /-- The byte is not one of the 21 controller opcodes (R96). -/
  | notAControllerOpcode
  /-- The opcode is one of the 21 and does not take this many parameter bytes (R96, R175). -/
  | wrongParameterCount
  deriving DecidableEq, Repr

/-- An encoded instruction: a request word, or a controller command's opcode byte with its parameter bytes
in transmission order. -/
inductive Encoded where
  | request (w : ReqWord)
  | wire (op : Byte) (ps : List Byte)
  deriving DecidableEq, Repr

/-- ORIENT (R84, R88): 0 = Landscape, 1 = Portrait. -/
def orientOfBit (b : BitVec 1) : Orientation := if b = 0 then .landscape else .portrait

/-- The ORIENT bit of an orientation. -/
def orientBit : Orientation → BitVec 1
  | .landscape => 0
  | .portrait => 1

/-- R90: the decoder of request words, total on all 2^32 of them.  A rejected word is the spec's ILLEGAL. -/
def decodeRequest (w : ReqWord) : Except DecodeReject Instr :=
  let op : BitVec 4 := w.extractLsb' 28 4
  if op = 0x1 then
    if w.extractLsb' 0 28 = 0 then .ok .reset else .error .reservedBitsSet
  else if op = 0x2 then
    if w.extractLsb' 25 3 = 0 then
      .ok (.init (orientOfBit (w.extractLsb' 24 1)) (w.extractLsb' 12 12) (w.extractLsb' 0 12))
    else .error .reservedBitsSet
  else if op = 0x3 then
    if w.extractLsb' 16 12 = 0 then .ok (.bright (w.extractLsb' 0 16)) else .error .reservedBitsSet
  else if op = 0x4 then
    if w.extractLsb' 0 28 = 0 then .ok .clear else .error .reservedBitsSet
  else if op = 0x5 then
    if w.extractLsb' 24 4 = 0 then .ok (.blit (w.extractLsb' 12 12) (w.extractLsb' 0 12))
    else .error .reservedBitsSet
  else .error .undefinedOperation

/-- R133 `hi(v)`: bits 15:8. -/
def hiByte (v : Half) : Byte := v.extractLsb' 8 8

/-- R133 `lo(v)`: bits 7:0. -/
def loByte (v : Half) : Byte := v.extractLsb' 0 8

/-- R133, R56: the four parameter bytes of a pair of bounds, each high byte first. -/
def boundBytes (a b : Half) : List Byte := [hiByte a, loByte a, hiByte b, loByte b]

/-- A command with at least one parameter byte (R175). -/
def someParams (mk : List Byte → Instr) (ps : List Byte) : Except DecodeReject Instr :=
  if 1 ≤ ps.length then .ok (mk ps) else .error .wrongParameterCount

/-- A gamma table command: exactly 14 parameter bytes (R175). -/
def gammaParams (mk : List Byte → Instr) (ps : List Byte) : Except DecodeReject Instr :=
  if ps.length = 14 then .ok (mk ps) else .error .wrongParameterCount

/-- A command without parameters (R96). -/
def noParams (i : Instr) (ps : List Byte) : Except DecodeReject Instr :=
  if ps = [] then .ok i else .error .wrongParameterCount

/-- A window command: exactly four parameter bytes, two bounds, each high byte first (R229, R230). -/
def boundParams (mk : Half → Half → Instr) (ps : List Byte) : Except DecodeReject Instr :=
  match ps with
  | [a, b, c, d] => .ok (mk (a ++ b) (c ++ d))
  | _ => .error .wrongParameterCount

/-- The controller command an opcode byte and its parameter bytes are (R96). -/
def decodeWire (op : Byte) (ps : List Byte) : Except DecodeReject Instr :=
  if op = 0x36 then someParams .cmd36 ps
  else if op = 0x3A then someParams .cmd3A ps
  else if op = 0xB2 then someParams .cmdB2 ps
  else if op = 0xB7 then someParams .cmdB7 ps
  else if op = 0xBB then someParams .cmdBB ps
  else if op = 0xC0 then someParams .cmdC0 ps
  else if op = 0xC2 then someParams .cmdC2 ps
  else if op = 0xC3 then someParams .cmdC3 ps
  else if op = 0xC4 then someParams .cmdC4 ps
  else if op = 0xC6 then someParams .cmdC6 ps
  else if op = 0xD0 then someParams .cmdD0 ps
  else if op = 0xD6 then someParams .cmdD6 ps
  else if op = 0xE0 then gammaParams .cmdE0 ps
  else if op = 0xE1 then gammaParams .cmdE1 ps
  else if op = 0xE4 then someParams .cmdE4 ps
  else if op = 0x21 then noParams .cmd21 ps
  else if op = 0x11 then noParams .cmd11 ps
  else if op = 0x29 then noParams .cmd29 ps
  else if op = 0x2A then boundParams .cmd2A ps
  else if op = 0x2B then boundParams .cmd2B ps
  else if op = 0x2C then noParams .cmd2C ps
  else .error .notAControllerOpcode

/-- The decoder of both levels. -/
def decode : Encoded → Except DecodeReject Instr
  | .request w => decodeRequest w
  | .wire op ps => decodeWire op ps

/-- The encoder: R83 to R87 for the requests, R94 to R96 for the controller commands. -/
def encode : Instr → Encoded
  | .reset => .request (0x1#4 ++ 0#28)
  | .init o width height => .request (0x2#4 ++ 0#3 ++ orientBit o ++ width ++ height)
  | .bright pct => .request (0x3#4 ++ 0#12 ++ pct)
  | .clear => .request (0x4#4 ++ 0#28)
  | .blit cols rows => .request (0x5#4 ++ 0#4 ++ cols ++ rows)
  | .cmd36 ps => .wire 0x36 ps
  | .cmd3A ps => .wire 0x3A ps
  | .cmdB2 ps => .wire 0xB2 ps
  | .cmdB7 ps => .wire 0xB7 ps
  | .cmdBB ps => .wire 0xBB ps
  | .cmdC0 ps => .wire 0xC0 ps
  | .cmdC2 ps => .wire 0xC2 ps
  | .cmdC3 ps => .wire 0xC3 ps
  | .cmdC4 ps => .wire 0xC4 ps
  | .cmdC6 ps => .wire 0xC6 ps
  | .cmdD0 ps => .wire 0xD0 ps
  | .cmdD6 ps => .wire 0xD6 ps
  | .cmdE0 ps => .wire 0xE0 ps
  | .cmdE1 ps => .wire 0xE1 ps
  | .cmdE4 ps => .wire 0xE4 ps
  | .cmd21 => .wire 0x21 []
  | .cmd11 => .wire 0x11 []
  | .cmd29 => .wire 0x29 []
  | .cmd2A c0 c1 => .wire 0x2A (boundBytes c0 c1)
  | .cmd2B r0 r1 => .wire 0x2B (boundBytes r0 r1)
  | .cmd2C => .wire 0x2C []

/-- The fewest parameter bytes the opcode takes: how many zero bytes follow a table word of one byte
(assumption log 16). -/
def leastParams (op : Byte) : Nat :=
  if op = 0xE0 ∨ op = 0xE1 then 14
  else if op = 0x2A ∨ op = 0x2B then 4
  else if op = 0x21 ∨ op = 0x11 ∨ op = 0x29 ∨ op = 0x2C then 0
  else 1

/-- The encoding that a word of spec/opcode_table.json stands for: 32 bits are a request word; 8 bits are an
opcode byte, whose parameter bytes are all zero. -/
def tableEncoding (nbits w : Nat) : Option Encoded :=
  if nbits = 32 ∧ w < 2 ^ 32 then some (.request (BitVec.ofNat 32 w))
  else if nbits = 8 ∧ w < 2 ^ 8 then
    some (.wire (BitVec.ofNat 8 w) (List.replicate (leastParams (BitVec.ofNat 8 w)) 0))
  else none

/-- The instruction the decoder reads from a table word; none where it refuses. -/
def decodeTableWord (nbits w : Nat) : Option Instr :=
  match tableEncoding nbits w with
  | some e => (decode e).toOption
  | none => none

end Sys2Proof
end

