-- ==== Sys2Proof/Machine/State.lean ====
section
/-! DEFINITION. The state of the block as plain data (10_state.md), its external events, and its value right
after block reset (R38, R280). -/

namespace Sys2Proof.Machine

/-- A digital level: 0 or 1 (R9). -/
inductive Level where
  | low
  | high
  deriving DecidableEq, Repr

/-- The two output pins the block writes (R9 `PinWrite`). -/
inductive Pin where
  | rst
  | dc
  deriving DecidableEq, Repr

/-- An external action (R9, R10): a pin write, one SPI transaction, or a backlight duty in percent. -/
inductive Action where
  | pin (p : Pin) (l : Level)
  | spi (bs : List Byte)
  | pwm (pct : BitVec 7)
  deriving DecidableEq, Repr

/-- One event of the trace (R10): an action performed, an action that failed, or a wait with its lower bound
in milliseconds. -/
inductive Event where
  | did (a : Action)
  | failed (a : Action)
  | waited (ms : Nat)
  deriving DecidableEq, Repr

/-- The status of a response (R251). -/
inductive Status where
  | ok
  | configurationError
  | transportError
  | invalidBufferShapeError
  | prematureOperationError
  | illegalRequest
  deriving DecidableEq, Repr

/-- The lifecycle register (R24): exactly five values (I16). -/
inductive Lifecycle where
  | unreset
  | resetting
  | initializing
  | ready
  | failed
  deriving DecidableEq, Repr

/-- One item of a request's fixed sequence (R35): an operation of the CommandChannel, a pin or backlight
action, a wait, a register write, or the forming of a transient buffer. -/
inductive SeqOp where
  /-- `sendCmd(op, ps)` (R119). -/
  | cmd (op : Byte) (ps : List Byte)
  /-- `sendDataBlock` of the transient buffer (R113). -/
  | stream
  /-- `act(Pin(RST, l))`. -/
  | rst (l : Level)
  /-- `act(Pwm(q))`. -/
  | pwm (q : BitVec 7)
  /-- `Wait(ms)`. -/
  | wait (ms : Nat)
  /-- `st.lc <- l`. -/
  | setLc (l : Lifecycle)
  /-- `st.cfg_orient <- o; st.cfg_w <- w; st.cfg_h <- h`. -/
  | setCfg (o : Orientation) (w h : Dim)
  /-- `st.bl_pct <- q`. -/
  | setBl (q : BitVec 7)
  /-- The clear buffer: `n` bytes 0xFF (R34). -/
  | fill (n : Nat)
  /-- The EncodedFrame of the first `n` pixels of the pixel source (R33). -/
  | encode (n : Nat)
  deriving DecidableEq, Repr

/-- One element of the pixel source as the host delivers it (R51, R52). -/
inductive PixCell where
  /-- The host keeps this pixel unchanged during the request. -/
  | stable (p : Pixel)
  /-- The host changes it: each read returns any value. -/
  | changing
  deriving DecidableEq, Repr

/-- A request as presented at the port (R11 `step(st, req, env)`): the word, its pixel source, the
environment's answers to its actions in order, and, if block reset is asserted during it, after how many of
its events. -/
structure Presented where
  word : ReqWord
  pix : List PixCell
  answers : List Answer
  cut : Option Nat
  deriving DecidableEq, Repr

/-- What the outside does at a request boundary. -/
inductive Stimulus where
  | request (p : Presented)
  | blockReset
  deriving DecidableEq, Repr

/-- The block and its interfaces.  The first eight fields are the record `st` of R20. -/
structure State where
  /-- `st.lc` (R24). -/
  lc : Lifecycle
  /-- `st.cfg_orient` (R26). -/
  cfgOrient : Orientation
  /-- `st.cfg_w` (R27). -/
  cfgW : Dim
  /-- `st.cfg_h` (R27). -/
  cfgH : Dim
  /-- `st.bl_pct` (R28). -/
  blPct : BitVec 7
  /-- `st.rst_lvl` (R29). -/
  rstLvl : Level
  /-- `st.dc_lvl` (R30). -/
  dcLvl : Level
  /-- `st.busy` (R31). -/
  busy : Bool
  /-- The sequencer (R35): what is left of the running request. -/
  seq : List SeqOp
  /-- The transient frame or clear buffer (R33, R34). -/
  buf : List Byte
  /-- The static configuration (R32).  Nothing writes it.  Assumption log 1. -/
  static : Config
  /-- REQ: what the host presents, in order; the head is at the port now (R31).  Assumption log 6. -/
  port : List Stimulus
  /-- The running request's pixel source (R51).  Assumption log 9. -/
  pix : List PixCell
  /-- The environment's answers to the running request's next actions.  Assumption log 7. -/
  answers : List Answer
  /-- After how many more events of the running request block reset strikes (R290).  Assumption log 8. -/
  cut : Option Nat
  /-- How many free answers have been used: the model's own counter.  Assumption log 7. -/
  answerDraws : Nat
  /-- How many pixels have been read: the model's own counter.  Assumption log 9. -/
  pixelDraws : Nat
  /-- The trace (R10), oldest event first.  Assumption log 10. -/
  trace : List Event
  /-- RSP: the statuses returned so far, oldest first (R251).  Assumption log 10. -/
  responses : List Status
  deriving DecidableEq, Repr

/-- The state right after block reset (R38, R280), with this hardware's configuration and nothing presented,
performed or answered yet.  Assumption logs 11 and 12. -/
def State.reset : State where
  lc := .unreset
  cfgOrient := .landscape
  cfgW := 0
  cfgH := 0
  blPct := 0
  rstLvl := .low
  dcLvl := .low
  busy := false
  seq := []
  buf := []
  static := Config.source
  port := []
  pix := []
  answers := []
  cut := none
  answerDraws := 0
  pixelDraws := 0
  trace := []
  responses := []

/-- Why the model's machine can stop.  No request and no controller command ends in one of these. -/
inductive Fault where
  /-- Raised by `step` when the sequencer of a running request holds a controller command that is none of the
  21 of R96, or has the wrong number of parameters.  No request puts one there.  Safe: the machine stops. -/
  | notAControllerCommand (op : Byte)
  deriving DecidableEq, Repr

/-- Why the model has no meaning for an instruction. -/
inductive Refusal where
  /-- Raised by an arm of `exec` whose instruction is not modelled; no arm does.  Safe. -/
  | notModelled (mnemonic : String)
  deriving DecidableEq, Repr

end Sys2Proof.Machine
end

