-- ==== Sys2Proof/Machine/Flags.lean ====
section
/-! DEFINITION. The block has no flags (R23).  Here is what it shows of its state instead: the numeric codes
of R24 and R251, and the outputs as functions of state (R36, R264). -/

namespace Sys2Proof.Machine

/-- R251: the code of a status on the response. -/
def statusCode : Status → Nat
  | .ok => 0
  | .configurationError => 1
  | .transportError => 2
  | .invalidBufferShapeError => 3
  | .prematureOperationError => 4
  | .illegalRequest => 5

/-- R24: the value of the lifecycle register. -/
def lifecycleCode : Lifecycle → BitVec 3
  | .unreset => 0
  | .resetting => 1
  | .initializing => 2
  | .ready => 3
  | .failed => 4

/-- A level as a bit. -/
def levelBit : Level → BitVec 1
  | .low => 0
  | .high => 1

/-- R264: the backlight output, a periodic signal. -/
structure PwmOut where
  frequencyHz : Nat
  dutyPercent : Nat
  deriving DecidableEq, Repr

/-- R264: the duty fraction, `pct / 100` exactly. -/
def PwmOut.duty (p : PwmOut) : ℚ := (p.dutyPercent : ℚ) / 100

/-- R264: the level at the fraction `x` of a period, 0 ≤ x < 1: high for the first part, low for the rest
(active-high).  When a period starts is not modelled (I11). -/
def PwmOut.levelAt (p : PwmOut) (x : ℚ) : Level := if x < p.duty then .high else .low

/-- R36: the RST output. -/
def rstOutput (s : State) : Level := s.rstLvl

/-- R36: the DC output. -/
def dcOutput (s : State) : Level := s.dcLvl

/-- R36, R264: the BL output. -/
def blOutput (s : State) : PwmOut := ⟨s.static.pwmHz, s.blPct.toNat⟩

/-- What the transport is configured with (R6, D23): maximum clock and mode. -/
def transportSetup (s : State) : Nat × Nat := (s.static.spiMaxHz, s.static.spiMode)

end Sys2Proof.Machine
end

