-- ==== Sys2Proof/Machine/Operands.lean ====
section
/-! DEFINITION. The values the requests compute with: the signed percent and its clamp (R85, R178), the
window mapper (§ PanelGeometry), the pixel codec, the chunk partition and the init sequence. -/

namespace Sys2Proof.Machine

/-- R88: `PCT = sext_16(w[15:0])`. -/
def percentOf (pct : Half) : Int := pct.toInt

/-- R178: 0 below 0, 100 above 100, the percent itself otherwise; 7 bits hold it (R28). -/
def clampPercent (p : Int) : BitVec 7 :=
  if p < 0 then 0 else if p > 100 then 100 else BitVec.ofNat 7 p.toNat

/-- R130: a rectangle in logical coordinates, the end coordinates exclusive. -/
structure Rect where
  xStart : Nat
  yStart : Nat
  xEnd : Nat
  yEnd : Nat
  deriving DecidableEq, Repr

/-- R130: when a rectangle is valid. -/
def Rect.valid (r : Rect) : Bool :=
  decide (r.xStart < r.xEnd) && decide (r.xEnd ≤ 4095) && decide (r.yStart < r.yEnd) && decide (r.yEnd ≤ 4095)

/-- The bounds a window command sends: first and last column, first and last row, both inclusive. -/
structure Window where
  c0 : Half
  c1 : Half
  r0 : Half
  r1 : Half
  deriving DecidableEq, Repr

/-- The offset on columns (R131, R132): `OFFSET` for Landscape, 0 for Portrait. -/
def columnOffset (offset : Nat) : Orientation → Nat
  | .landscape => offset
  | .portrait => 0

/-- The offset on rows (R131, R132): `OFFSET` for Portrait, 0 for Landscape. -/
def rowOffset (offset : Nat) : Orientation → Nat
  | .landscape => 0
  | .portrait => offset

/-- R131 `resolveWindow`.  For a valid rectangle and a configuration of R7 every bound fits 16 bits (R136). -/
def resolveWindow (offset : Nat) (r : Rect) (o : Orientation) : Window where
  c0 := BitVec.ofNat 16 (r.xStart + columnOffset offset o)
  c1 := BitVec.ofNat 16 (r.xEnd - 1 + columnOffset offset o)
  r0 := BitVec.ofNat 16 (r.yStart + rowOffset offset o)
  r1 := BitVec.ofNat 16 (r.yEnd - 1 + rowOffset offset o)

/-- R137 `fullRect`: width and height are swapped for Portrait. -/
def fullRect (o : Orientation) (w h : Dim) : Rect :=
  match o with
  | .landscape => ⟨0, 0, w.toNat, h.toNat⟩
  | .portrait => ⟨0, 0, h.toNat, w.toNat⟩

/-- R89: the red byte of a pixel-source element. -/
def red (p : Pixel) : Byte := p.extractLsb' 16 8

/-- R89: the green byte. -/
def green (p : Pixel) : Byte := p.extractLsb' 8 8

/-- R89: the blue byte. -/
def blue (p : Pixel) : Byte := p.extractLsb' 0 8

/-- R150: the high byte of `enc565`. -/
def enc565Hi (r g : Byte) : Byte := (r &&& 0xF8) ||| (g >>> 5)

/-- R150: the low byte of `enc565`. -/
def enc565Lo (g b : Byte) : Byte := ((g <<< 3) &&& 0xE0) ||| (b >>> 3)

/-- R150, R152: the two bytes of one pixel, high byte first. -/
def enc565 (p : Pixel) : List Byte := [enc565Hi (red p) (green p), enc565Lo (green p) (blue p)]

/-- `PixRead(0) … PixRead(n - 1)` (R51, R52).  A pixel the host changes, or never delivered, reads as a free
value, a new one for each read; `d` reads were made before (assumption log 9). -/
def readPixels : List PixCell → Nat → Nat → List Pixel
  | _, _, 0 => []
  | [], d, n + 1 => Config.freePixel d :: readPixels [] (d + 1) n
  | .stable p :: cs, d, n + 1 => p :: readPixels cs (d + 1) n
  | .changing :: cs, d, n + 1 => Config.freePixel d :: readPixels cs (d + 1) n

/-- R152 `encodeFrame`: the pixels in row-major order, two bytes each. -/
def encodeFrame (ps : List Pixel) : List Byte := ps.flatMap enc565

/-- `ceil(n / c)` (R8). -/
def ceilDiv (n c : Nat) : Nat := (n + (c - 1)) / c

/-- R114 `chunk(bs, k) = bs[k·CHUNK .. min((k+1)·CHUNK, N) − 1]`. -/
def chunkAt (c : Nat) (bs : List Byte) (k : Nat) : List Byte := (bs.drop (k * c)).take c

/-- R113, R114: the chunks of a block in order, `ceil(N / CHUNK)` of them. -/
def chunks (c : Nat) (bs : List Byte) : List (List Byte) :=
  (List.range (ceilDiv bs.length c)).map (chunkAt c bs)

/-- R174: the opcode of an init command. -/
def initOpcode : InitOp → Byte
  | .i36 => 0x36
  | .i3A => 0x3A
  | .iB2 => 0xB2
  | .iB7 => 0xB7
  | .iBB => 0xBB
  | .iC0 => 0xC0
  | .iC2 => 0xC2
  | .iC3 => 0xC3
  | .iC4 => 0xC4
  | .iC6 => 0xC6
  | .iD0 => 0xD0
  | .iD6 => 0xD6
  | .iE0 => 0xE0
  | .iE1 => 0xE1
  | .iE4 => 0xE4
  | .i21 => 0x21
  | .i11 => 0x11

/-- The bytes of a non-empty list. -/
def listOf (b : Bytes1) : List Byte := b.head :: b.tail

/-- R174, R175 `InitParams(op)`. -/
def initBytes (t : InitParams) : InitOp → List Byte
  | .i36 => listOf t.p36
  | .i3A => listOf t.p3A
  | .iB2 => listOf t.pB2
  | .iB7 => listOf t.pB7
  | .iBB => listOf t.pBB
  | .iC0 => listOf t.pC0
  | .iC2 => listOf t.pC2
  | .iC3 => listOf t.pC3
  | .iC4 => listOf t.pC4
  | .iC6 => listOf t.pC6
  | .iD0 => listOf t.pD0
  | .iD6 => listOf t.pD6
  | .iE0 => t.pE0.toList
  | .iE1 => t.pE1.toList
  | .iE4 => listOf t.pE4
  | .i21 => []
  | .i11 => []

/-- R174 `INIT_OPS`: the 17 commands in order. -/
def initOps : List InitOp :=
  [.i36, .i3A, .iB2, .iB7, .iBB, .iC0, .iC2, .iC3, .iC4, .iC6, .iD0, .iD6, .iE0, .iE1, .iE4, .i21, .i11]

/-- The two BLIT paths (R13, R181). -/
inductive BlitPath where
  | a
  | b
  deriving DecidableEq, Repr

/-- R181 `selectPath`: path A is tested first, so a square panel takes it; none is a wrong shape. -/
def selectPath (cfgW cfgH cols rows : Dim) : Option BlitPath :=
  if cols = cfgW ∧ rows = cfgH then some .a
  else if cols = cfgH ∧ rows = cfgW then some .b
  else none

end Sys2Proof.Machine
end

