-- ==== Sys2Proof/Machine/Ops.lean ====
section
/-! DEFINITION. The operations every instruction is made of: one external action, one wait, the
CommandChannel's micro-operations, the running of a request's sequence, the ending of a request (the block's
analogue of taking an exception, R250, R258), and block reset. -/

namespace Sys2Proof.Machine

/-- How a piece of a request's sequence ends: all of it was performed; an error was raised (R9 `raise E`); or
block reset struck, and the state is already the one after it. -/
inductive Run where
  | done (s : State)
  | raised (e : Status) (s : State)
  | struck (s : State)
  deriving DecidableEq, Repr

/-- Go on with `f` unless the piece before it ended the request (R9: "no later step of the request runs"). -/
def Run.bind (r : Run) (f : State → Run) : Run :=
  match r with
  | .done s => f s
  | .raised e s => .raised e s
  | .struck s => .struck s

/-! ### Register writes -/

/-- The sequencer moves on (R35). -/
def State.withSeq (s : State) (r : List SeqOp) : State := { s with seq := r }

/-- `st.busy <- b` (R31). -/
def State.withBusy (s : State) (b : Bool) : State := { s with busy := b }

/-- `st.lc <- l` (R24, R25). -/
def State.withLc (s : State) (l : Lifecycle) : State := { s with lc := l }

/-- `st.cfg_orient <- o; st.cfg_w <- w; st.cfg_h <- h` (R26, R27). -/
def State.withCfg (s : State) (o : Orientation) (w h : Dim) : State :=
  { s with cfgOrient := o, cfgW := w, cfgH := h }

/-- `st.bl_pct <- q` (R28). -/
def State.withBl (s : State) (q : BitVec 7) : State := { s with blPct := q }

/-- The clear buffer (R34): `n` bytes 0xFF. -/
def State.fillBuf (s : State) (n : Nat) : State := { s with buf := List.replicate n 0xFF }

/-- The EncodedFrame (R33, R152) of the first `n` pixels of the pixel source, each read once. -/
def State.encodeBuf (s : State) (n : Nat) : State :=
  { s with buf := encodeFrame (readPixels s.pix s.pixelDraws n), pixelDraws := s.pixelDraws + n }

/-! ### Block reset, events and answers -/

/-- Block reset (R280): every field of the block at its value of R38.  The static configuration, what the
host will present, the counters of free values and what was already observed stay. -/
def blockReset (s : State) : State :=
  { State.reset with
    static := s.static
    port := s.port
    answerDraws := s.answerDraws
    pixelDraws := s.pixelDraws
    trace := s.trace
    responses := s.responses }

/-- An event joins the trace (R10), and block reset, if it is to strike this request, is one event nearer. -/
def State.emit (s : State) (e : Event) : State :=
  { s with trace := s.trace ++ [e], cut := s.cut.map (· - 1) }

/-- Take the environment's answer to the next action: the next listed one, or a free value (R253, D41). -/
def State.nextAnswer (s : State) : Answer :=
  match s.answers with
  | a :: _ => a
  | [] => Config.freeAnswer s.answerDraws

/-- The state once that answer is taken. -/
def State.dropAnswer (s : State) : State :=
  match s.answers with
  | _ :: as => { s with answers := as }
  | [] => { s with answerDraws := s.answerDraws + 1 }

/-- The level register a pin write updates (R29, R30). -/
def State.setLevel (s : State) (a : Action) : State :=
  match a with
  | .pin .rst l => { s with rstLvl := l }
  | .pin .dc l => { s with dcLvl := l }
  | .spi _ => s
  | .pwm _ => s

/-- R9 `act(e)`: on `ok` the event joins the trace and a pin's level register is written; on `fail`
`Failed(e)` joins it and TransportError is raised.  Block reset may strike before the action (R290). -/
def act (a : Action) (s : State) : Run :=
  if s.cut = some 0 then .struck (blockReset s)
  else
    match s.nextAnswer with
    | .ok => .done ((s.dropAnswer.setLevel a).emit (.did a))
    | .fail => .raised .transportError (s.dropAnswer.emit (.failed a))

/-- R9 `Wait(ms)`: an event with its lower bound; it never fails.  Block reset may strike before it ends. -/
def wait (ms : Nat) (s : State) : Run :=
  if s.cut = some 0 then .struck (blockReset s) else .done (s.emit (.waited ms))

/-- What a sequence performs outside: an action or a wait. -/
inductive Micro where
  | act (a : Action)
  | wait (ms : Nat)
  deriving DecidableEq, Repr

/-- Perform one of them. -/
def performOne : Micro → State → Run
  | .act a, s => act a s
  | .wait ms, s => wait ms s

/-- Perform a list of them in order, each completed before the next starts (R64). -/
def perform : List Micro → State → Run
  | [], s => .done s
  | m :: ms, s => (performOne m s).bind (perform ms)

/-- R111 `sendCommand(op)`: DC low, then one transaction of one byte. -/
def sendCommand (op : Byte) : List Micro := [.act (.pin .dc .low), .act (.spi [op])]

/-- R112 `sendData(b)`: DC high, then one transaction of one byte. -/
def sendData (b : Byte) : List Micro := [.act (.pin .dc .high), .act (.spi [b])]

/-- R113 `sendDataBlock(bs)`: DC high once, then one transaction for each chunk. -/
def sendDataBlock (c : Nat) (bs : List Byte) : List Micro :=
  .act (.pin .dc .high) :: (chunks c bs).map fun ch => .act (.spi ch)

/-- R119 `sendCmd(op, ps)`: the command, then each parameter as data. -/
def sendCmd (op : Byte) (ps : List Byte) : List Micro := sendCommand op ++ ps.flatMap sendData

/-- Perform one item of a request's sequence. -/
def runItem (item : SeqOp) (s : State) : Run :=
  match item with
  | .cmd op ps => perform (sendCmd op ps) s
  | .stream => perform (sendDataBlock s.static.chunk s.buf) s
  | .rst l => act (.pin .rst l) s
  | .pwm q => act (.pwm q) s
  | .wait ms => wait ms s
  | .setLc l => .done (s.withLc l)
  | .setCfg o w h => .done (s.withCfg o w h)
  | .setBl q => .done (s.withBl q)
  | .fill n => .done (s.fillBuf n)
  | .encode n => .done (s.encodeBuf n)

/-- Perform the items in order; the sequencer holds what is left (R35). -/
def runItems : List SeqOp → State → Run
  | [], s => .done s
  | item :: rest, s => (runItem item (s.withSeq rest)).bind (runItems rest)

/-- The end of a request (R170): busy falls, nothing transient is held, the status goes out (R251).  If block
reset strikes first, no status is returned (R290). -/
def respond (e : Status) (s : State) : State :=
  if s.cut = some 0 then blockReset s
  else
    { s with
      busy := false
      seq := []
      buf := []
      pix := []
      answers := []
      cut := none
      responses := s.responses ++ [e] }

/-- R170 `catch`, R258: a TransportError of RESET, INIT, CLEAR or BLIT (`marks`) moves the lifecycle to
FAILED; no other error changes it. -/
def catchError (marks : Bool) (e : Status) (s : State) : State :=
  if marks = true ∧ e = .transportError then s.withLc .failed else s

/-- The state a piece of a request leaves when it may be continued: an error has ended the request. -/
def settle (marks : Bool) : Run → State
  | .done s => s
  | .raised e s => respond e (catchError marks e s)
  | .struck s => s

/-- The state a whole request leaves: performed to its end, it answers OK. -/
def finish (marks : Bool) : Run → State
  | .done s => respond .ok s
  | .raised e s => respond e (catchError marks e s)
  | .struck s => s

/-- R170 `execute`: busy rises, the request's checks come first, then its items in order. -/
def execute (marks : Bool) (program : State → Except Status (List SeqOp)) (s : State) : State :=
  match program (s.withBusy true) with
  | .error e => finish marks (.raised e (s.withBusy true))
  | .ok items => finish marks (runItems items (s.withBusy true))

/-- Whether a TransportError of this item moves the lifecycle to FAILED: the backlight action is BRIGHT's,
every other is RESET's, INIT's, CLEAR's or BLIT's (R258).  Assumption log 15. -/
def marksFailed : SeqOp → Bool
  | .pwm _ => false
  | .cmd _ _ => true
  | .stream => true
  | .rst _ => true
  | .wait _ => true
  | .setLc _ => true
  | .setCfg _ _ _ => true
  | .setBl _ => true
  | .fill _ => true
  | .encode _ => true

/-- R210: one controller command of a running request. -/
def emitCommand (op : Byte) (ps : List Byte) (s : State) : State :=
  settle true (perform (sendCmd op ps) s)

/-- The port's word is taken (R31): its pixel source and environment become the running request's. -/
def accept (p : Presented) (rest : List Stimulus) (s : State) : State :=
  { s with port := rest, pix := p.pix, answers := p.answers, cut := p.cut }

/-- R184: an illegal word performs no event and answers IllegalRequest. -/
def illegalRequest (s : State) : State := execute false (fun _ => .error .illegalRequest) s

/-- R7, R252: construction.  A configuration that breaks R7 gives no block. -/
def construct (c : Config) : Except Status State :=
  if c.wf then .ok { State.reset with static := c } else .error .configurationError

/-- The sequencer item and the idle or busy state by which the next step runs an encoded instruction
(assumption log 6). -/
def placeEncoded (s : State) : Encoded → State
  | .request w => { s with busy := false, seq := [], port := .request ⟨w, [], [], none⟩ :: s.port }
  | .wire op ps => { s with busy := true, seq := [.cmd op ps], cut := none }

end Sys2Proof.Machine
end

