-- ==== Sys2Proof/Machine/HostRequests.lean ====
section
/-! DEFINITION. The five host requests (43_controller_ops.md): each one's checks and sequence, and its
meaning, which is that sequence inside the frame of R170. -/

namespace Sys2Proof.Machine

/-- R172 `hardReset()`: three edges, each followed by a wait. -/
def hardReset (c : Config) : List SeqOp :=
  [.rst .high, .wait c.tRstMs, .rst .low, .wait c.tRstMs, .rst .high, .wait c.tRstMs]

/-- R134 `emitWindow(rect, o)`: column address set, row address set, memory write. -/
def emitWindow (c : Config) (r : Rect) (o : Orientation) : List SeqOp :=
  [.cmd 0x2A (boundBytes (resolveWindow c.offset r o).c0 (resolveWindow c.offset r o).c1),
   .cmd 0x2B (boundBytes (resolveWindow c.offset r o).r0 (resolveWindow c.offset r o).r1),
   .cmd 0x2C []]

/-- R171 `doRESET`. -/
def resetProgram (s : State) : Except Status (List SeqOp) :=
  .ok (.setLc .resetting :: hardReset s.static)

/-- R173 `doINIT`: the configuration check first, then hardReset, the stored configuration, the init
sequence (R174), the wake wait and display-on (R176). -/
def initProgram (o : Orientation) (width height : Dim) (s : State) : Except Status (List SeqOp) :=
  if width = 0 ∨ height = 0 then .error .configurationError
  else
    .ok (.setLc .resetting :: hardReset s.static ++ [.setCfg o width height, .setLc .initializing] ++
      initOps.map (fun op => .cmd (initOpcode op) (initBytes s.static.initParams op)) ++
      [.wait s.static.tWakeMs, .cmd 0x29 [], .setLc .ready])

/-- R177 `doBRIGHT`: the duty register is written only after the action succeeded. -/
def brightProgram (pct : Half) (_ : State) : Except Status (List SeqOp) :=
  .ok [.pwm (clampPercent (percentOf pct)), .setBl (clampPercent (percentOf pct))]

/-- R179 `doCLEAR`: `2 · cfg_w · cfg_h` bytes 0xFF through the full-panel window. -/
def clearProgram (s : State) : Except Status (List SeqOp) :=
  if s.lc ≠ .ready then .error .prematureOperationError
  else
    .ok (.fill (2 * s.cfgW.toNat * s.cfgH.toNat) ::
      emitWindow s.static (fullRect s.cfgOrient s.cfgW s.cfgH) s.cfgOrient ++ [.stream])

/-- R180 `doBLIT`: the lifecycle check, then the shape check (R257), then path A (R182) or path B (R183). -/
def blitProgram (cols rows : Dim) (s : State) : Except Status (List SeqOp) :=
  if s.lc ≠ .ready then .error .prematureOperationError
  else
    match selectPath s.cfgW s.cfgH cols rows with
    | none => .error .invalidBufferShapeError
    | some .a =>
      .ok (.encode (cols.toNat * rows.toNat) :: .cmd 0x36 [s.static.macLandscape] ::
        emitWindow s.static ⟨0, 0, s.cfgW.toNat, s.cfgH.toNat⟩ .landscape ++ [.stream])
    | some .b =>
      .ok (.encode (cols.toNat * rows.toNat) :: .cmd 0x36 [s.static.macPortrait] ::
        emitWindow s.static ⟨0, 0, s.cfgH.toNat, s.cfgW.toNat⟩ .portrait ++ [.stream])

/-- RESET (R171). -/
def execReset (s : State) : Host.Outcome State Fault Refusal := .next (execute true resetProgram s)

/-- INIT (R173). -/
def execInit (o : Orientation) (width height : Dim) (s : State) : Host.Outcome State Fault Refusal :=
  .next (execute true (initProgram o width height) s)

/-- BRIGHT (R177): a TransportError leaves the lifecycle as it is (R258). -/
def execBright (pct : Half) (s : State) : Host.Outcome State Fault Refusal :=
  .next (execute false (brightProgram pct) s)

/-- CLEAR (R179). -/
def execClear (s : State) : Host.Outcome State Fault Refusal := .next (execute true clearProgram s)

/-- BLIT (R180). -/
def execBlit (cols rows : Dim) (s : State) : Host.Outcome State Fault Refusal :=
  .next (execute true (blitProgram cols rows) s)

end Sys2Proof.Machine
end

