-- ==== Sys2Proof/Machine/WireCommands.lean ====
section
/-! DEFINITION. The 21 controller commands on the wire (44_wire_commands.md): what each one emits when it is
the next item of the running request.  The block gives them no other effect (R210); what the panel does with
them is outside it (R37). -/

namespace Sys2Proof.Machine

/-- 0x36, memory access control (R211). -/
def execCmd36 (ps : List Byte) (s : State) : Host.Outcome State Fault Refusal :=
  .next (emitCommand 0x36 ps s)

/-- 0x3A, pixel format (R212). -/
def execCmd3A (ps : List Byte) (s : State) : Host.Outcome State Fault Refusal :=
  .next (emitCommand 0x3A ps s)

/-- 0xB2, porch timing (R213). -/
def execCmdB2 (ps : List Byte) (s : State) : Host.Outcome State Fault Refusal :=
  .next (emitCommand 0xB2 ps s)

/-- 0xB7, gate control (R214). -/
def execCmdB7 (ps : List Byte) (s : State) : Host.Outcome State Fault Refusal :=
  .next (emitCommand 0xB7 ps s)

/-- 0xBB, VCOM voltage (R215). -/
def execCmdBB (ps : List Byte) (s : State) : Host.Outcome State Fault Refusal :=
  .next (emitCommand 0xBB ps s)

/-- 0xC0, power/LCM control (R216). -/
def execCmdC0 (ps : List Byte) (s : State) : Host.Outcome State Fault Refusal :=
  .next (emitCommand 0xC0 ps s)

/-- 0xC2, power/LCM control (R217). -/
def execCmdC2 (ps : List Byte) (s : State) : Host.Outcome State Fault Refusal :=
  .next (emitCommand 0xC2 ps s)

/-- 0xC3, power/LCM control (R218). -/
def execCmdC3 (ps : List Byte) (s : State) : Host.Outcome State Fault Refusal :=
  .next (emitCommand 0xC3 ps s)

/-- 0xC4, power/LCM control (R219). -/
def execCmdC4 (ps : List Byte) (s : State) : Host.Outcome State Fault Refusal :=
  .next (emitCommand 0xC4 ps s)

/-- 0xC6, power/LCM control (R220). -/
def execCmdC6 (ps : List Byte) (s : State) : Host.Outcome State Fault Refusal :=
  .next (emitCommand 0xC6 ps s)

/-- 0xD0, power control (R221). -/
def execCmdD0 (ps : List Byte) (s : State) : Host.Outcome State Fault Refusal :=
  .next (emitCommand 0xD0 ps s)

/-- 0xD6, RGB interface control (R222). -/
def execCmdD6 (ps : List Byte) (s : State) : Host.Outcome State Fault Refusal :=
  .next (emitCommand 0xD6 ps s)

/-- 0xE0, positive gamma correction (R223). -/
def execCmdE0 (ps : List Byte) (s : State) : Host.Outcome State Fault Refusal :=
  .next (emitCommand 0xE0 ps s)

/-- 0xE1, negative gamma correction (R224). -/
def execCmdE1 (ps : List Byte) (s : State) : Host.Outcome State Fault Refusal :=
  .next (emitCommand 0xE1 ps s)

/-- 0xE4, power mode (R225). -/
def execCmdE4 (ps : List Byte) (s : State) : Host.Outcome State Fault Refusal :=
  .next (emitCommand 0xE4 ps s)

/-- 0x21, display inversion (R226). -/
def execCmd21 (s : State) : Host.Outcome State Fault Refusal :=
  .next (emitCommand 0x21 [] s)

/-- 0x11, sleep-out/wake (R227). -/
def execCmd11 (s : State) : Host.Outcome State Fault Refusal :=
  .next (emitCommand 0x11 [] s)

/-- 0x29, display on (R228). -/
def execCmd29 (s : State) : Host.Outcome State Fault Refusal :=
  .next (emitCommand 0x29 [] s)

/-- 0x2A, column address set (R229). -/
def execCmd2A (c0 c1 : Half) (s : State) : Host.Outcome State Fault Refusal :=
  .next (emitCommand 0x2A (boundBytes c0 c1) s)

/-- 0x2B, row address set (R230). -/
def execCmd2B (r0 r1 : Half) (s : State) : Host.Outcome State Fault Refusal :=
  .next (emitCommand 0x2B (boundBytes r0 r1) s)

/-- 0x2C, memory write (R231). -/
def execCmd2C (s : State) : Host.Outcome State Fault Refusal :=
  .next (emitCommand 0x2C [] s)

end Sys2Proof.Machine
end

