-- ==== Sys2Proof/Machine/Dispatch.lean ====
section
/-! DEFINITION. One arm for each instruction. -/

namespace Sys2Proof.Machine

def exec (i : Instr) (s : State) : Host.Outcome State Fault Refusal :=
  match i with
  | .reset => Sys2Proof.Machine.execReset s
  | .init o width height => Sys2Proof.Machine.execInit o width height s
  | .bright pct => Sys2Proof.Machine.execBright pct s
  | .clear => Sys2Proof.Machine.execClear s
  | .blit cols rows => Sys2Proof.Machine.execBlit cols rows s
  | .cmd36 ps => Sys2Proof.Machine.execCmd36 ps s
  | .cmd3A ps => Sys2Proof.Machine.execCmd3A ps s
  | .cmdB2 ps => Sys2Proof.Machine.execCmdB2 ps s
  | .cmdB7 ps => Sys2Proof.Machine.execCmdB7 ps s
  | .cmdBB ps => Sys2Proof.Machine.execCmdBB ps s
  | .cmdC0 ps => Sys2Proof.Machine.execCmdC0 ps s
  | .cmdC2 ps => Sys2Proof.Machine.execCmdC2 ps s
  | .cmdC3 ps => Sys2Proof.Machine.execCmdC3 ps s
  | .cmdC4 ps => Sys2Proof.Machine.execCmdC4 ps s
  | .cmdC6 ps => Sys2Proof.Machine.execCmdC6 ps s
  | .cmdD0 ps => Sys2Proof.Machine.execCmdD0 ps s
  | .cmdD6 ps => Sys2Proof.Machine.execCmdD6 ps s
  | .cmdE0 ps => Sys2Proof.Machine.execCmdE0 ps s
  | .cmdE1 ps => Sys2Proof.Machine.execCmdE1 ps s
  | .cmdE4 ps => Sys2Proof.Machine.execCmdE4 ps s
  | .cmd21 => Sys2Proof.Machine.execCmd21 s
  | .cmd11 => Sys2Proof.Machine.execCmd11 s
  | .cmd29 => Sys2Proof.Machine.execCmd29 s
  | .cmd2A c0 c1 => Sys2Proof.Machine.execCmd2A c0 c1 s
  | .cmd2B r0 r1 => Sys2Proof.Machine.execCmd2B r0 r1 s
  | .cmd2C => Sys2Proof.Machine.execCmd2C s

end Sys2Proof.Machine
end

