-- ==== Sys2Proof/Machine/Step.lean ====
section
/-! DEFINITION. One step of the block.  From a request boundary it takes the word at the port and runs that
request to its response (R11: one request is one atomic transition).  In a state where a request is running
it performs that request's next item (R35), and the port's word waits (R31). -/

namespace Sys2Proof.Machine

/-- A request is running: its next item, or, when none is left, its OK response. -/
def sequencerStep (s : State) : Host.Outcome State Fault Refusal :=
  match s.seq with
  | [] => .next (respond .ok s)
  | .cmd op ps :: rest =>
    match decodeWire op ps with
    | .ok i => exec i (s.withSeq rest)
    | .error _ => .fault (.notAControllerCommand op)
  | item :: rest => .next (settle (marksFailed item) (runItem item (s.withSeq rest)))

/-- The block is idle: it does nothing until a word arrives (R281), block reset resets it (R280), and a
presented word is taken, decoded and run (R170). -/
def boundaryStep (s : State) : Host.Outcome State Fault Refusal :=
  match s.port with
  | [] => .next s
  | .blockReset :: rest => .next (blockReset { s with port := rest })
  | .request p :: rest =>
    match decodeRequest p.word with
    | .ok i => exec i (accept p rest s)
    | .error _ => .next (illegalRequest (accept p rest s))

/-- One step. -/
def step (s : State) : Host.Outcome State Fault Refusal :=
  if s.busy then sequencerStep s else boundaryStep s

/-- The state whose next step runs the instruction of a table word: a request word at the port of the idle
block, or a controller command as the next item of a running request (assumption log 6). -/
def State.withFetchWord (s : State) (nbits w : Nat) : State :=
  match tableEncoding nbits w with
  | some e => placeEncoded s e
  | none => s

end Sys2Proof.Machine
end

