-- ==== Sys2Proof/Safety.lean ====
section
/-! DEFINITION. The terms claims use: the event lists of R98's notation and the full traces of the requests,
when the environment lets a run go through, what a request leaves, a well-framed trace, and the invariant of a
request boundary. -/

namespace Sys2Proof.Machine

/-! ### Event lists (R98) -/

/-- R98 `C(op)`. -/
def traceC (op : Byte) : List Event := [.did (.pin .dc .low), .did (.spi [op])]

/-- R98 `D(b)`. -/
def traceD (b : Byte) : List Event := [.did (.pin .dc .high), .did (.spi [b])]

/-- R98 `CMD op: p1 p2 …`. -/
def traceCmd (op : Byte) (ps : List Byte) : List Event := traceC op ++ ps.flatMap traceD

/-- R98 `BLOCK(N; bytes)`. -/
def traceBlock (c : Nat) (bs : List Byte) : List Event :=
  .did (.pin .dc .high) :: (chunks c bs).map fun ch => .did (.spi ch)

/-- The six events of hardReset (R172). -/
def traceHardReset (c : Config) : List Event :=
  [.did (.pin .rst .high), .waited c.tRstMs, .did (.pin .rst .low), .waited c.tRstMs,
   .did (.pin .rst .high), .waited c.tRstMs]

/-- The full INIT trace (R187). -/
def traceInit (c : Config) : List Event :=
  traceHardReset c ++
  initOps.flatMap (fun op => traceCmd (initOpcode op) (initBytes c.initParams op)) ++
  [.waited c.tWakeMs] ++ traceC 0x29

/-- The events of `emitWindow` (R134). -/
def traceWindow (c : Config) (r : Rect) (o : Orientation) : List Event :=
  traceCmd 0x2A (boundBytes (resolveWindow c.offset r o).c0 (resolveWindow c.offset r o).c1) ++
  traceCmd 0x2B (boundBytes (resolveWindow c.offset r o).r0 (resolveWindow c.offset r o).r1) ++
  traceC 0x2C

/-- The full CLEAR trace in READY (R179). -/
def traceClear (s : State) : List Event :=
  traceWindow s.static (fullRect s.cfgOrient s.cfgW s.cfgH) s.cfgOrient ++
  traceBlock s.static.chunk (List.replicate (2 * s.cfgW.toNat * s.cfgH.toNat) 0xFF)

/-- The frame a BLIT of `cols × rows` forms in a state (R152). -/
def frameOf (s : State) (cols rows : Dim) : List Byte :=
  encodeFrame (readPixels s.pix s.pixelDraws (cols.toNat * rows.toNat))

/-- The full trace of a BLIT on path A (R182). -/
def traceBlitA (s : State) (cols rows : Dim) : List Event :=
  traceCmd 0x36 [s.static.macLandscape] ++
  traceWindow s.static ⟨0, 0, s.cfgW.toNat, s.cfgH.toNat⟩ .landscape ++
  traceBlock s.static.chunk (frameOf s cols rows)

/-- The full trace of a BLIT on path B (R183). -/
def traceBlitB (s : State) (cols rows : Dim) : List Event :=
  traceCmd 0x36 [s.static.macPortrait] ++
  traceWindow s.static ⟨0, 0, s.cfgH.toNat, s.cfgW.toNat⟩ .portrait ++
  traceBlock s.static.chunk (frameOf s cols rows)

/-- The full trace of an instruction begun in a state: what it performs when nothing fails and no block reset
strikes, and nothing where a check ends it first (R252, R254, R255). -/
def fullTrace (i : Instr) (s : State) : List Event :=
  match i with
  | .reset => traceHardReset s.static
  | .init _ width height => if width = 0 ∨ height = 0 then [] else traceInit s.static
  | .bright pct => [.did (.pwm (clampPercent (percentOf pct)))]
  | .clear => if s.lc = .ready then traceClear s else []
  | .blit cols rows =>
    if s.lc = .ready then
      match selectPath s.cfgW s.cfgH cols rows with
      | none => []
      | some .a => traceBlitA s cols rows
      | some .b => traceBlitB s cols rows
    else []
  | .cmd36 ps => traceCmd 0x36 ps
  | .cmd3A ps => traceCmd 0x3A ps
  | .cmdB2 ps => traceCmd 0xB2 ps
  | .cmdB7 ps => traceCmd 0xB7 ps
  | .cmdBB ps => traceCmd 0xBB ps
  | .cmdC0 ps => traceCmd 0xC0 ps
  | .cmdC2 ps => traceCmd 0xC2 ps
  | .cmdC3 ps => traceCmd 0xC3 ps
  | .cmdC4 ps => traceCmd 0xC4 ps
  | .cmdC6 ps => traceCmd 0xC6 ps
  | .cmdD0 ps => traceCmd 0xD0 ps
  | .cmdD6 ps => traceCmd 0xD6 ps
  | .cmdE0 ps => traceCmd 0xE0 ps
  | .cmdE1 ps => traceCmd 0xE1 ps
  | .cmdE4 ps => traceCmd 0xE4 ps
  | .cmd21 => traceCmd 0x21 []
  | .cmd11 => traceCmd 0x11 []
  | .cmd29 => traceCmd 0x29 []
  | .cmd2A c0 c1 => traceCmd 0x2A (boundBytes c0 c1)
  | .cmd2B r0 r1 => traceCmd 0x2B (boundBytes r0 r1)
  | .cmd2C => traceCmd 0x2C []

/-- Whether an instruction is a host request (R82): the others are controller commands. -/
def isRequest (i : Instr) : Bool :=
  match encode i with
  | .request _ => true
  | .wire _ _ => false

/-- The checks and the sequence of a host request (R170); a controller command is itself a sequence of one. -/
def programOf (i : Instr) (s : State) : Except Status (List SeqOp) :=
  match i with
  | .reset => resetProgram s
  | .init o width height => initProgram o width height s
  | .bright pct => brightProgram pct s
  | .clear => clearProgram s
  | .blit cols rows => blitProgram cols rows s
  | .cmd36 ps => .ok [.cmd 0x36 ps]
  | .cmd3A ps => .ok [.cmd 0x3A ps]
  | .cmdB2 ps => .ok [.cmd 0xB2 ps]
  | .cmdB7 ps => .ok [.cmd 0xB7 ps]
  | .cmdBB ps => .ok [.cmd 0xBB ps]
  | .cmdC0 ps => .ok [.cmd 0xC0 ps]
  | .cmdC2 ps => .ok [.cmd 0xC2 ps]
  | .cmdC3 ps => .ok [.cmd 0xC3 ps]
  | .cmdC4 ps => .ok [.cmd 0xC4 ps]
  | .cmdC6 ps => .ok [.cmd 0xC6 ps]
  | .cmdD0 ps => .ok [.cmd 0xD0 ps]
  | .cmdD6 ps => .ok [.cmd 0xD6 ps]
  | .cmdE0 ps => .ok [.cmd 0xE0 ps]
  | .cmdE1 ps => .ok [.cmd 0xE1 ps]
  | .cmdE4 ps => .ok [.cmd 0xE4 ps]
  | .cmd21 => .ok [.cmd 0x21 []]
  | .cmd11 => .ok [.cmd 0x11 []]
  | .cmd29 => .ok [.cmd 0x29 []]
  | .cmd2A c0 c1 => .ok [.cmd 0x2A (boundBytes c0 c1)]
  | .cmd2B r0 r1 => .ok [.cmd 0x2B (boundBytes r0 r1)]
  | .cmd2C => .ok [.cmd 0x2C []]

/-- Whether a TransportError of the request moves the lifecycle to FAILED (R258): all but BRIGHT's. -/
def marksOf : Instr → Bool
  | .bright _ => false
  | .reset | .init _ _ _ | .clear | .blit _ _ => true
  | .cmd36 _ | .cmd3A _ | .cmdB2 _ | .cmdB7 _ | .cmdBB _ | .cmdC0 _ | .cmdC2 _ | .cmdC3 _ | .cmdC4 _ => true
  | .cmdC6 _ | .cmdD0 _ | .cmdD6 _ | .cmdE0 _ | .cmdE1 _ | .cmdE4 _ => true
  | .cmd21 | .cmd11 | .cmd29 | .cmd2A _ _ | .cmd2B _ _ | .cmd2C => true

/-! ### The environment -/

/-- Whether an event is an action, performed or failed: each takes one answer. -/
def Event.isAction : Event → Bool
  | .did _ => true
  | .failed _ => true
  | .waited _ => false

/-- How many answers a list of events takes. -/
def actionCount (evs : List Event) : Nat := evs.countP Event.isAction

/-- Whether an event is a completed SPI transaction. -/
def Event.isTransaction : Event → Bool
  | .did (.spi _) => true
  | .did (.pin _ _) => false
  | .did (.pwm _) => false
  | .failed _ => false
  | .waited _ => false

/-- How many completed SPI transactions a list of events holds (R187, R188). -/
def transactionCount (evs : List Event) : Nat := evs.countP Event.isTransaction

/-- The answer the k-th next action will get: the k-th listed one, or a free value. -/
def State.answerAt (s : State) (k : Nat) : Answer :=
  match s.answers[k]? with
  | some a => a
  | none => Config.freeAnswer (s.answerDraws + (k - s.answers.length))

/-- Block reset does not strike before these events are over, nor at their end. -/
def State.uncut (s : State) (evs : List Event) : Prop := ∀ k, s.cut = some k → evs.length < k

/-- The environment lets these events go through: every action is answered ok, and block reset does not
strike. -/
def State.calm (s : State) (evs : List Event) : Prop :=
  (∀ k, k < actionCount evs → s.answerAt k = .ok) ∧ s.uncut evs

/-- The level a pin is left at: the last one written to it. -/
def lastLevel (p : Pin) : Level → List Event → Level
  | l, [] => l
  | l, .did (.pin q m) :: evs => lastLevel p (if q = p then m else l) evs
  | l, .did (.spi _) :: evs => lastLevel p l evs
  | l, .did (.pwm _) :: evs => lastLevel p l evs
  | l, .failed _ :: evs => lastLevel p l evs
  | l, .waited _ :: evs => lastLevel p l evs

/-- The state after these events of a request that goes on. -/
def State.after (s : State) (evs : List Event) : State :=
  { s with
    trace := s.trace ++ evs
    answers := s.answers.drop (actionCount evs)
    answerDraws := s.answerDraws + (actionCount evs - s.answers.length)
    cut := s.cut.map (· - evs.length)
    rstLvl := lastLevel .rst s.rstLvl evs
    dcLvl := lastLevel .dc s.dcLvl evs }

/-- The state after a request that performed these events and answered `e`, but for the block's own
registers: the interfaces' part of it. -/
def State.answered (s : State) (e : Status) (evs : List Event) : State :=
  { s with
    busy := false
    seq := []
    buf := []
    pix := []
    answers := []
    cut := none
    answerDraws := s.answerDraws + (actionCount evs - s.answers.length)
    trace := s.trace ++ evs
    responses := s.responses ++ [e] }

/-! ### Framing -/

/-- R96: the 21 opcodes the block emits as commands. -/
def wireOpcodes : List Byte :=
  [0x36, 0x3A, 0xB2, 0xB7, 0xBB, 0xC0, 0xC2, 0xC3, 0xC4, 0xC6, 0xD0, 0xD6, 0xE0, 0xE1, 0xE4,
   0x21, 0x11, 0x29, 0x2A, 0x2B, 0x2C]

/-- Whether a transaction is well framed under the DC level written just before it: low allows one byte that
is a controller opcode (R94, R96); high allows 1 to `CHUNK` bytes (R59). -/
def spiFramed (c : Nat) (dc : Option Level) (bs : List Byte) : Bool :=
  match dc, bs with
  | some .low, [op] => wireOpcodes.contains op
  | some .high, b :: bs => decide ((b :: bs).length ≤ c)
  | _, _ => false

/-- A trace in which every transaction, completed or failed, directly follows its DC write (R65), a command's
write serving one transaction and a data block's write serving all its chunks with no event between (R115).
`dc` is the level written last, if nothing but chunks has come since. -/
def framed (c : Nat) (dc : Option Level) : List Event → Bool
  | [] => true
  | .did (.pin .dc l) :: evs => framed c (some l) evs
  | .did (.pin .rst _) :: evs => framed c none evs
  | .did (.pwm _) :: evs => framed c none evs
  | .did (.spi bs) :: evs => spiFramed c dc bs && framed c (if dc = some .high then dc else none) evs
  | .failed (.spi bs) :: evs => spiFramed c dc bs && framed c none evs
  | .failed (.pin _ _) :: evs => framed c none evs
  | .failed (.pwm _) :: evs => framed c none evs
  | .waited _ :: evs => framed c none evs

/-! ### The invariant of a request boundary -/

/-- What holds whenever the block is idle: nothing of a request is held (R33 to R35), the lifecycle is one a
boundary can have (R35), the duty is a percentage (R28), a READY block has non-zero dimensions (R27), its
configuration is one of R7, and the trace so far is well framed (R65, R94, R96). -/
structure State.Boundary (s : State) : Prop where
  idle : s.busy = false
  noSequence : s.seq = []
  noBuffer : s.buf = []
  lifecycle : s.lc ≠ .initializing
  duty : s.blPct.toNat ≤ 100
  dims : s.lc = .ready → s.cfgW ≠ 0 ∧ s.cfgH ≠ 0
  config : s.static.wf = true
  framing : framed s.static.chunk none s.trace = true

/-- Only the configuration, the port, the counters, the trace and the responses differ from block reset: the
registers are at their values of R38 and nothing of a request is held. -/
def State.atReset (s : State) : Prop :=
  s.lc = .unreset ∧ s.cfgOrient = .landscape ∧ s.cfgW = 0 ∧ s.cfgH = 0 ∧ s.blPct = 0 ∧
  s.rstLvl = .low ∧ s.dcLvl = .low ∧ s.busy = false ∧ s.seq = [] ∧ s.buf = [] ∧ s.pix = [] ∧
  s.answers = [] ∧ s.cut = none

end Sys2Proof.Machine
end

