-- ==== Sys2Proof/Certificates/Slice0/Obligations.lean ====
section
/-! DEFINITION. The statements about the model, from the spec's numbered rules. -/

open Sys2Proof Sys2Proof.Machine

/-! ## Encoding -/

/-- R83 to R87, R94 to R96: no operand bit of any of the 26 instructions is lost by its encoding. -/
def Obligations.DecodeOfEncodeIsTheInstruction : Prop :=
  ∀ i : Instr, i.wf = true → decode (encode i) = .ok i

/-- R81, R93, R96: an encoding that decodes is the one encoding of the well-formed instruction it decodes to.
The parameter counts of `wf` are R175's (at least one byte, 14, none); that a standalone controller command is
read with exactly those counts is the model's choice (assumption log 16). -/
def Obligations.EveryAcceptedEncodingIsCanonical : Prop :=
  ∀ (e : Encoded) (i : Instr), decode e = .ok i → i.wf = true ∧ encode i = e

/-- R90, every case of its pseudocode, the fields read by arithmetic on the word's number. -/
def Obligations.RequestDecodeFollowsItsTable : Prop :=
  ∀ w : ReqWord,
    (w.toNat / 2 ^ 28 = 1 → w.toNat % 2 ^ 28 = 0 → decodeRequest w = .ok .reset) ∧
    (w.toNat / 2 ^ 28 = 2 → w.toNat / 2 ^ 25 % 2 ^ 3 = 0 →
      decodeRequest w = .ok (.init (if w.toNat / 2 ^ 24 % 2 = 0 then .landscape else .portrait)
        (BitVec.ofNat 12 (w.toNat / 2 ^ 12 % 2 ^ 12)) (BitVec.ofNat 12 (w.toNat % 2 ^ 12)))) ∧
    (w.toNat / 2 ^ 28 = 3 → w.toNat / 2 ^ 16 % 2 ^ 12 = 0 →
      ∃ p : Half, decodeRequest w = .ok (.bright p) ∧
        percentOf p = if w.toNat % 2 ^ 16 < 2 ^ 15 then (w.toNat % 2 ^ 16 : Int)
          else (w.toNat % 2 ^ 16 : Int) - 2 ^ 16) ∧
    (w.toNat / 2 ^ 28 = 4 → w.toNat % 2 ^ 28 = 0 → decodeRequest w = .ok .clear) ∧
    (w.toNat / 2 ^ 28 = 5 → w.toNat / 2 ^ 24 % 2 ^ 4 = 0 →
      decodeRequest w =
        .ok (.blit (BitVec.ofNat 12 (w.toNat / 2 ^ 12 % 2 ^ 12)) (BitVec.ofNat 12 (w.toNat % 2 ^ 12)))) ∧
    (w.toNat / 2 ^ 28 = 0 ∨ 6 ≤ w.toNat / 2 ^ 28 ∨
        ((w.toNat / 2 ^ 28 = 1 ∨ w.toNat / 2 ^ 28 = 4) ∧ w.toNat % 2 ^ 28 ≠ 0) ∨
        (w.toNat / 2 ^ 28 = 2 ∧ w.toNat / 2 ^ 25 % 2 ^ 3 ≠ 0) ∨
        (w.toNat / 2 ^ 28 = 3 ∧ w.toNat / 2 ^ 16 % 2 ^ 12 ≠ 0) ∨
        (w.toNat / 2 ^ 28 = 5 ∧ w.toNat / 2 ^ 24 % 2 ^ 4 ≠ 0) →
      ∃ r, decodeRequest w = .error r)

/-- Words written out from R83 to R87 and R96 decode to what they stand for (95_test_vectors.md 2.4). -/
def Obligations.SampleWordsDecode : Prop :=
  decodeRequest 0x10000000 = .ok .reset ∧
  decodeRequest 0x211180F0 = .ok (.init .portrait 280 240) ∧
  decodeRequest 0x3000FFF6 = .ok (.bright 0xFFF6) ∧
  decodeRequest 0x40000000 = .ok .clear ∧
  decodeRequest 0x500F0118 = .ok (.blit 240 280) ∧
  decodeRequest 0x221180F0 = .error .reservedBitsSet ∧
  decodeRequest 0x60000000 = .error .undefinedOperation ∧
  decodeWire 0x36 [0x70] = .ok (.cmd36 [0x70]) ∧
  decodeWire 0x2A [0x00, 0x14, 0x01, 0x2B] = .ok (.cmd2A 20 299) ∧
  decodeWire 0x29 [] = .ok .cmd29

/-- R96: a decoded controller command is one of the 21 opcodes, and each of the 21 is one. -/
def Obligations.ControllerOpcodesAreTheTwentyOne : Prop :=
  ∀ op : Byte, (∃ ps i, decodeWire op ps = .ok i) ↔ op ∈ wireOpcodes

/-! ## The step -/

/-- A request word at the port of the idle block that decodes to an instruction is taken and that instruction
runs, with the presented pixel source and environment. -/
def Obligations.StepRunsTheDecodedRequest : Prop :=
  ∀ (s : State) (p : Presented) (rest : List Stimulus) (i : Instr),
    s.busy = false → s.port = .request p :: rest → decodeRequest p.word = .ok i →
      step s = exec i { s with port := rest, pix := p.pix, answers := p.answers, cut := p.cut }

/-- The controller command that is the running request's next item decodes to an instruction and that
instruction runs (model's choice: assumption log 6). -/
def Obligations.StepRunsTheDecodedCommand : Prop :=
  ∀ (s : State) (op : Byte) (ps : List Byte) (rest : List SeqOp) (i : Instr),
    s.busy = true → s.seq = .cmd op ps :: rest → decodeWire op ps = .ok i →
      step s = exec i { s with seq := rest }

/-- R281: the idle block with nothing presented does nothing. -/
def Obligations.IdleBlockWaits : Prop :=
  ∀ s : State, s.busy = false → s.port = [] → step s = .next s

/-- R280: block reset at a request boundary puts every register at its reset value, emits no event and returns
no status; the outputs are low, the backlight dark; the configuration stays.  That the presented list goes on, and
that the trace and the responses so far stay, are the model's choices (assumption logs 8 and 10). -/
def Obligations.BlockResetAtABoundary : Prop :=
  ∀ (s : State) (rest : List Stimulus), s.busy = false → s.port = .blockReset :: rest →
    ∃ t, step s = .next t ∧ t.atReset ∧ t.static = s.static ∧ t.port = rest ∧
      t.trace = s.trace ∧ t.responses = s.responses ∧
      rstOutput t = .low ∧ dcOutput t = .low ∧ (blOutput t).duty = 0

/-- R184, R256: an illegal word performs no event, changes no state and answers IllegalRequest, whatever the
environment would answer; the word is taken from the port. -/
def Obligations.IllegalWordAnswersIllegalRequest : Prop :=
  ∀ (s : State) (p : Presented) (rest : List Stimulus) (r : DecodeReject),
    s.busy = false → s.port = .request p :: rest → decodeRequest p.word = .error r → (∀ k, p.cut = some k → 0 < k) →
      step s = .next { s with
        port := rest, seq := [], buf := [], pix := [], answers := [], cut := none
        responses := s.responses ++ [.illegalRequest] }

/-- R31: while a request runs, the presented words stay at the port. -/
def Obligations.BusyBlockTakesNoWord : Prop :=
  ∀ s t : State, s.busy = true → step s = .next t → t.port = s.port

/-- R31, R170: at its end a request answers OK and busy falls.  That this response is a step of its own where a
request runs item by item is the model's choice (assumption log 5). -/
def Obligations.RunningRequestAnswersOkAtItsEnd : Prop :=
  ∀ s : State, s.busy = true → s.seq = [] → s.uncut [] → step s = .next (s.answered .ok [])

/-- R11, R35: running a request in one step from the boundary leaves the state that performing its sequence
item by item leaves.  The items, their steps and when a transient buffer is formed are the model's choices
(assumption logs 5, 15 and 17). -/
def Obligations.AtomicRequestIsItsSequence : Prop :=
  ∀ (i : Instr) (s : State) (items : List SeqOp), isRequest i = true →
    programOf i { s with busy := true } = .ok items →
      ∃ n, Sys2Proof.core.run n ({ s with busy := true, seq := items } : State) = exec i s

/-! ## What the requests do -/

/-- R171, R172: RESET, from every state. -/
def Obligations.ResetDrivesThreeEdges : Prop :=
  ∀ s : State, s.calm (traceHardReset s.static) →
    exec .reset s = .next { s.answered .ok (traceHardReset s.static) with lc := .resetting, rstLvl := .high }

/-- R173, R174, R176, R187: INIT with non-zero dimensions, from every state: its trace, the state it leaves, the
17 opcodes in their order, each with its own parameter table, between hardReset and the wake wait, and how many
events and transactions that trace has. -/
def Obligations.InitSendsTheInitSequence : Prop :=
  ∀ (s : State) (o : Orientation) (width height : Dim), width ≠ 0 → height ≠ 0 →
    s.calm (traceInit s.static) →
      exec (.init o width height) s = .next { s.answered .ok (traceInit s.static) with
        lc := .ready, cfgOrient := o, cfgW := width, cfgH := height, rstLvl := .high, dcLvl := .low } ∧
      (let t := s.static.initParams
       traceInit s.static = traceHardReset s.static ++
         (traceCmd 0x36 (t.p36.head :: t.p36.tail) ++ traceCmd 0x3A (t.p3A.head :: t.p3A.tail) ++
           traceCmd 0xB2 (t.pB2.head :: t.pB2.tail) ++ traceCmd 0xB7 (t.pB7.head :: t.pB7.tail) ++
           traceCmd 0xBB (t.pBB.head :: t.pBB.tail) ++ traceCmd 0xC0 (t.pC0.head :: t.pC0.tail) ++
           traceCmd 0xC2 (t.pC2.head :: t.pC2.tail) ++ traceCmd 0xC3 (t.pC3.head :: t.pC3.tail) ++
           traceCmd 0xC4 (t.pC4.head :: t.pC4.tail) ++ traceCmd 0xC6 (t.pC6.head :: t.pC6.tail) ++
           traceCmd 0xD0 (t.pD0.head :: t.pD0.tail) ++ traceCmd 0xD6 (t.pD6.head :: t.pD6.tail) ++
           traceCmd 0xE0 t.pE0.toList ++ traceCmd 0xE1 t.pE1.toList ++
           traceCmd 0xE4 (t.pE4.head :: t.pE4.tail) ++ traceCmd 0x21 [] ++ traceCmd 0x11 []) ++
         [.waited s.static.tWakeMs, .did (.pin .dc .low), .did (.spi [0x29])]) ∧
      initOps.map initOpcode =
        [0x36, 0x3A, 0xB2, 0xB7, 0xBB, 0xC0, 0xC2, 0xC3, 0xC4, 0xC6, 0xD0, 0xD6, 0xE0, 0xE1, 0xE4, 0x21, 0x11] ∧
      (traceInit s.static).length =
        43 + 2 * (initOps.map fun op => (initBytes s.static.initParams op).length).sum ∧
      41 ≤ (initOps.map fun op => (initBytes s.static.initParams op).length).sum ∧
      transactionCount (traceInit s.static) =
        18 + (initOps.map fun op => (initBytes s.static.initParams op).length).sum ∧
      ∀ bs, .did (.spi bs) ∈ traceInit s.static → bs.length = 1

/-- R252: INIT with a zero dimension answers ConfigurationError, with no event and no state change, whatever
the environment would answer. -/
def Obligations.InitRejectsAZeroDimension : Prop :=
  ∀ (s : State) (o : Orientation) (width height : Dim), width = 0 ∨ height = 0 → s.uncut [] →
    exec (.init o width height) s = .next (s.answered .configurationError [])

/-- R177, R178: BRIGHT in every lifecycle state. -/
def Obligations.BrightSetsTheClampedDuty : Prop :=
  ∀ (s : State) (pct : Half) (q : BitVec 7),
    (q.toNat : Int) = max 0 (min 100 pct.toInt) → s.calm [.did (.pwm q)] →
      exec (.bright pct) s = .next { s.answered .ok [.did (.pwm q)] with blPct := q }

/-- R258: a failed PWM action of BRIGHT leaves the lifecycle and the duty as they were. -/
def Obligations.BrightFailureChangesNothing : Prop :=
  ∀ (s : State) (pct : Half), s.answerAt 0 = .fail →
    s.uncut [.failed (.pwm (clampPercent (percentOf pct)))] →
    exec (.bright pct) s =
      .next (s.answered .transportError [.failed (.pwm (clampPercent (percentOf pct)))])

/-- R179, R137: CLEAR in READY, and its four bounds in numbers for each stored orientation: Landscape spans the
width in columns and the height in rows, Portrait the height in columns and the width in rows. -/
def Obligations.ClearFillsTheWindowWhite : Prop :=
  ∀ s : State, s.lc = .ready → s.calm (traceClear s) →
    exec .clear s = .next { s.answered .ok (traceClear s) with dcLvl := .high } ∧
      let block := .did (.pin .dc .low) :: .did (.spi [0x2C]) ::
        traceBlock s.static.chunk (List.replicate (2 * s.cfgW.toNat * s.cfgH.toNat) 0xFF)
      (s.cfgOrient = .landscape → traceClear s =
        traceCmd 0x2A (boundBytes (BitVec.ofNat 16 s.static.offset)
          (BitVec.ofNat 16 (s.cfgW.toNat - 1 + s.static.offset))) ++
        traceCmd 0x2B (boundBytes 0 (BitVec.ofNat 16 (s.cfgH.toNat - 1))) ++ block) ∧
      (s.cfgOrient = .portrait → traceClear s =
        traceCmd 0x2A (boundBytes 0 (BitVec.ofNat 16 (s.cfgH.toNat - 1))) ++
        traceCmd 0x2B (boundBytes (BitVec.ofNat 16 s.static.offset)
          (BitVec.ofNat 16 (s.cfgW.toNat - 1 + s.static.offset))) ++ block)

/-- R255: CLEAR and BLIT outside READY answer PrematureOperationError with no event and no state change. -/
def Obligations.DrawingOutsideReadyIsPremature : Prop :=
  ∀ (s : State) (cols rows : Dim), s.lc ≠ .ready → s.uncut [] →
    exec .clear s = .next (s.answered .prematureOperationError []) ∧
    exec (.blit cols rows) s = .next (s.answered .prematureOperationError [])

/-- R182: a buffer of the panel's width by its height is sent on path A. -/
def Obligations.BlitLandscapePath : Prop :=
  ∀ (s : State) (cols rows : Dim), s.lc = .ready → cols = s.cfgW → rows = s.cfgH →
    s.calm (traceBlitA s cols rows) →
      exec (.blit cols rows) s = .next { s.answered .ok (traceBlitA s cols rows) with
        dcLvl := .high, pixelDraws := s.pixelDraws + cols.toNat * rows.toNat }

/-- R183: a buffer of height by width on a panel that is not square is sent on path B. -/
def Obligations.BlitPortraitPath : Prop :=
  ∀ (s : State) (cols rows : Dim), s.lc = .ready → cols = s.cfgH → rows = s.cfgW → s.cfgW ≠ s.cfgH →
    s.calm (traceBlitB s cols rows) →
      exec (.blit cols rows) s = .next { s.answered .ok (traceBlitB s cols rows) with
        dcLvl := .high, pixelDraws := s.pixelDraws + cols.toNat * rows.toNat }

/-- R254: a READY BLIT of neither accepted shape answers InvalidBufferShapeError, with no event, no state
change and no pixel read. -/
def Obligations.BlitRejectsAWrongShape : Prop :=
  ∀ (s : State) (cols rows : Dim), s.lc = .ready → ¬ (cols = s.cfgW ∧ rows = s.cfgH) →
    ¬ (cols = s.cfgH ∧ rows = s.cfgW) → s.uncut [] →
      exec (.blit cols rows) s = .next (s.answered .invalidBufferShapeError [])

/-- R188: how many events and transactions the drawing requests' full traces have, and that a pixel block writes
DC high once. -/
def Obligations.DrawingTraceCounts : Prop :=
  ∀ (s : State) (cols rows : Dim),
    (traceClear s).length = 23 + ceilDiv (2 * s.cfgW.toNat * s.cfgH.toNat) s.static.chunk ∧
    transactionCount (traceClear s) =
      11 + ceilDiv (2 * s.cfgW.toNat * s.cfgH.toNat) s.static.chunk ∧
    (traceBlitA s cols rows).length = 27 + ceilDiv (2 * cols.toNat * rows.toNat) s.static.chunk ∧
    transactionCount (traceBlitA s cols rows) =
      13 + ceilDiv (2 * cols.toNat * rows.toNat) s.static.chunk ∧
    (traceBlitB s cols rows).length = 27 + ceilDiv (2 * cols.toNat * rows.toNat) s.static.chunk ∧
    transactionCount (traceBlitB s cols rows) =
      13 + ceilDiv (2 * cols.toNat * rows.toNat) s.static.chunk ∧
    (∀ bs, (traceBlock s.static.chunk bs).count (.did (.pin .dc .high)) = 1)

/-! ## What the controller commands do -/

/-- R95, R119, R211 to R225: the fifteen init commands with parameters (CMD_36, CMD_3A, CMD_B2, CMD_B7, CMD_BB,
CMD_C0, CMD_C2, CMD_C3, CMD_C4, CMD_C6, CMD_D0, CMD_D6, CMD_E0, CMD_E1, CMD_E4): the opcode with DC low, then
each parameter with DC high. -/
def Obligations.ParameterisedCommandsEmit : Prop :=
  ∀ (s : State) (p : Byte) (ps : List Byte) (op : Byte) (i : Instr),
    (op, i) ∈ [(0x36, .cmd36 (p :: ps)), (0x3A, .cmd3A (p :: ps)), (0xB2, .cmdB2 (p :: ps)),
      (0xB7, .cmdB7 (p :: ps)), (0xBB, .cmdBB (p :: ps)), (0xC0, .cmdC0 (p :: ps)), (0xC2, .cmdC2 (p :: ps)),
      (0xC3, .cmdC3 (p :: ps)), (0xC4, .cmdC4 (p :: ps)), (0xC6, .cmdC6 (p :: ps)), (0xD0, .cmdD0 (p :: ps)),
      (0xD6, .cmdD6 (p :: ps)), (0xE0, .cmdE0 (p :: ps)), (0xE1, .cmdE1 (p :: ps)),
      ((0xE4 : Byte), Instr.cmdE4 (p :: ps))] →
    s.calm (traceCmd op (p :: ps)) →
      exec i s = .next { s.after (traceCmd op (p :: ps)) with rstLvl := s.rstLvl, dcLvl := .high }

/-- R226, R227, R228, R231: the commands without parameters (CMD_21, CMD_11, CMD_29, CMD_2C) are two events. -/
def Obligations.BareCommandsEmit : Prop :=
  ∀ (s : State) (op : Byte) (i : Instr),
    (op, i) ∈ [(0x21, .cmd21), (0x11, .cmd11), (0x29, .cmd29), ((0x2C : Byte), Instr.cmd2C)] →
    s.calm [.did (.pin .dc .low), .did (.spi [op])] →
      exec i s = .next { s.after [.did (.pin .dc .low), .did (.spi [op])] with
        rstLvl := s.rstLvl, dcLvl := .low }

/-- R229, R230, R133: the window commands (CMD_2A, CMD_2B) send their two bounds as four bytes, each bound's
high byte (the quotient by 256) before its low byte (the remainder). -/
def Obligations.WindowCommandsSplitTheirBounds : Prop :=
  ∀ (s : State) (a b : Half) (op : Byte) (i : Instr),
    (op, i) ∈ [(0x2A, .cmd2A a b), ((0x2B : Byte), Instr.cmd2B a b)] →
    let evs : List Event := traceCmd op [BitVec.ofNat 8 (a.toNat / 256), BitVec.ofNat 8 (a.toNat % 256),
      BitVec.ofNat 8 (b.toNat / 256), BitVec.ofNat 8 (b.toNat % 256)]
    s.calm evs → exec i s = .next { s.after evs with rstLvl := s.rstLvl, dcLvl := .high }

/-! ## Errors, block reset and traces -/

/-- R117, R253, for all 26 instructions: whichever action fails first, the events before it are in the trace, then
its failure, nothing after; the request ends with TransportError; the lifecycle is FAILED, but BRIGHT's is as it
was, and its duty too; the level registers hold what was written last.  R253 and R258 say FAILED of the requests
RESET, INIT, CLEAR and BLIT; that a controller command run as an item of one does it itself is the model's reading
(assumption log 15). -/
def Obligations.AFailedActionEndsTheRequest : Prop :=
  ∀ (i : Instr) (s : State) (k : Nat) (a : Action),
    (fullTrace i s)[k]? = some (.did a) → s.uncut (fullTrace i s) →
    (∀ j, j < actionCount ((fullTrace i s).take k) → s.answerAt j = .ok) →
    s.answerAt (actionCount ((fullTrace i s).take k)) = .fail →
      ∃ t, exec i s = .next t ∧ t.trace = s.trace ++ (fullTrace i s).take k ++ [.failed a] ∧
        t.responses = s.responses ++ [.transportError] ∧ t.busy = false ∧ t.seq = [] ∧
        ((∀ pct, i ≠ .bright pct) → t.lc = .failed) ∧
        (∀ pct, i = .bright pct → t.lc = s.lc ∧ t.blPct = s.blPct) ∧
        t.rstLvl = lastLevel .rst s.rstLvl ((fullTrace i s).take k) ∧
        t.dcLvl = lastLevel .dc s.dcLvl ((fullTrace i s).take k)

/-- R64, R250, R253, R290, for all 26 instructions: what any run adds to the trace is a prefix of the full
trace, or such a prefix and then the failure of the very next action. -/
def Obligations.EveryTraceIsAPrefixOrFailsNext : Prop :=
  ∀ (i : Instr) (s t : State), exec i s = .next t →
    ∃ evs, t.trace = s.trace ++ evs ∧
      (evs <+: fullTrace i s ∨
        ∃ pre a, evs = pre ++ [.failed a] ∧ pre ++ [.did a] <+: fullTrace i s)

/-- R251, R257: without block reset, a request returns exactly one status. -/
def Obligations.EveryRequestAnswersOnce : Prop :=
  ∀ (i : Instr) (s t : State), isRequest i = true → s.uncut (fullTrace i s) → exec i s = .next t →
    t.busy = false ∧ ∃ e, t.responses = s.responses ++ [e] ∧
      (e = .ok → t.trace = s.trace ++ fullTrace i s)

/-- R253, R258: the state a request leaves by its status.  TransportError moves the lifecycle to FAILED, but for
BRIGHT; its trace ends with the failed action, which writes no level register.  The errors a check raises change
nothing and perform nothing. -/
def Obligations.ErrorEffectByStatus : Prop :=
  ∀ (i : Instr) (s t : State) (e : Status), isRequest i = true → s.uncut (fullTrace i s) → exec i s = .next t →
    t.responses = s.responses ++ [e] →
      (e = .transportError →
        ((∃ pct, i = .bright pct ∧ t.lc = s.lc ∧ t.blPct = s.blPct) ∨
          ((∀ pct, i ≠ .bright pct) ∧ t.lc = .failed)) ∧
        ∃ pre a, t.trace = s.trace ++ pre ++ [.failed a] ∧ pre ++ [.did a] <+: fullTrace i s ∧
          t.rstLvl = lastLevel .rst s.rstLvl pre ∧ t.dcLvl = lastLevel .dc s.dcLvl pre) ∧
      (e ≠ .ok → e ≠ .transportError → t = s.answered e [])

/-- R257: the first check that fails decides the status, whatever the environment would answer. -/
def Obligations.ChecksComeInOrder : Prop :=
  ∀ (i : Instr) (s t : State), isRequest i = true → s.uncut (fullTrace i s) → exec i s = .next t →
    ∃ e, t.responses = s.responses ++ [e] ∧ e ≠ .illegalRequest ∧
      (e = .configurationError ↔ ∃ o width height, i = .init o width height ∧ (width = 0 ∨ height = 0)) ∧
      (e = .prematureOperationError ↔ (i = .clear ∨ ∃ c r, i = .blit c r) ∧ s.lc ≠ .ready) ∧
      (e = .invalidBufferShapeError ↔ ∃ c r, i = .blit c r ∧ s.lc = .ready ∧
        ¬ (c = s.cfgW ∧ r = s.cfgH) ∧ ¬ (c = s.cfgH ∧ r = s.cfgW))

/-- R290: block reset after `k` events of a request, no action having failed, leaves those `k` events in the
trace, returns no status and puts every register at its reset value.  That it falls between two events, that the
last point stands before the response, and that the presented list stays are the model's choices (assumption
log 8). -/
def Obligations.BlockResetCutsARequestShort : Prop :=
  ∀ (i : Instr) (s : State) (k : Nat), isRequest i = true → s.cut = some k → k ≤ (fullTrace i s).length →
    (∀ j, j < actionCount ((fullTrace i s).take k) → s.answerAt j = .ok) →
      ∃ t, exec i s = .next t ∧ t.atReset ∧ t.trace = s.trace ++ (fullTrace i s).take k ∧
        t.responses = s.responses ∧ t.static = s.static ∧ t.port = s.port

/-! ## Frames -/

/-- R171: RESET, however it ends without block reset, writes no register but the lifecycle and RST. -/
def Obligations.FrameOfReset : Prop :=
  ∀ s t : State, s.uncut (fullTrace .reset s) → exec .reset s = .next t →
    t.cfgOrient = s.cfgOrient ∧ t.cfgW = s.cfgW ∧ t.cfgH = s.cfgH ∧ t.blPct = s.blPct ∧ t.dcLvl = s.dcLvl ∧
    t.static = s.static ∧ t.port = s.port ∧ t.pixelDraws = s.pixelDraws

/-- R173, R258: INIT does not write the backlight duty, and it writes the stored configuration if and only if
hardReset has completed; until then DC keeps its level. -/
def Obligations.FrameOfInit : Prop :=
  ∀ (s t : State) (o : Orientation) (width height : Dim),
    s.uncut (fullTrace (.init o width height) s) →
    exec (.init o width height) s = .next t →
    t.blPct = s.blPct ∧ t.static = s.static ∧ t.port = s.port ∧ t.pixelDraws = s.pixelDraws ∧
    (¬ (s.trace ++ traceHardReset s.static <+: t.trace) →
      t.cfgOrient = s.cfgOrient ∧ t.cfgW = s.cfgW ∧ t.cfgH = s.cfgH ∧ t.dcLvl = s.dcLvl) ∧
    (s.trace ++ traceHardReset s.static <+: t.trace →
      t.cfgOrient = o ∧ t.cfgW = width ∧ t.cfgH = height ∧ t.rstLvl = .high)

/-- R177: BRIGHT writes no register but the duty. -/
def Obligations.FrameOfBright : Prop :=
  ∀ (s t : State) (pct : Half), s.uncut (fullTrace (.bright pct) s) → exec (.bright pct) s = .next t →
    t.lc = s.lc ∧ t.cfgOrient = s.cfgOrient ∧ t.cfgW = s.cfgW ∧ t.cfgH = s.cfgH ∧ t.rstLvl = s.rstLvl ∧
    t.dcLvl = s.dcLvl ∧ t.static = s.static ∧ t.port = s.port ∧ t.pixelDraws = s.pixelDraws

/-- R179, R180: CLEAR and BLIT write no register but DC, and the lifecycle where they fail. -/
def Obligations.FrameOfClearAndBlit : Prop :=
  ∀ (s t : State) (i : Instr), (i = .clear ∨ ∃ cols rows, i = .blit cols rows) → s.uncut (fullTrace i s) →
    exec i s = .next t →
    t.cfgOrient = s.cfgOrient ∧ t.cfgW = s.cfgW ∧ t.cfgH = s.cfgH ∧ t.blPct = s.blPct ∧ t.rstLvl = s.rstLvl ∧
    t.static = s.static ∧ t.port = s.port ∧ (t.lc = s.lc ∨ t.lc = .failed)

/-- R111 to R119: a controller command writes no register but DC.  Where it fails the lifecycle is FAILED: R253
and R258 say so of the request, and that the command run as an item does it itself is the model's reading
(assumption log 15). -/
def Obligations.FrameOfCommands : Prop :=
  ∀ (s t : State) (i : Instr), isRequest i = false → s.uncut (fullTrace i s) → exec i s = .next t →
    t.cfgOrient = s.cfgOrient ∧ t.cfgW = s.cfgW ∧ t.cfgH = s.cfgH ∧ t.blPct = s.blPct ∧ t.rstLvl = s.rstLvl ∧
    t.static = s.static ∧ t.port = s.port ∧ t.pixelDraws = s.pixelDraws ∧ (t.lc = s.lc ∨ t.lc = .failed)

/-- R32, R53: no step, whatever it runs, changes the static configuration. -/
def Obligations.StaticConfigurationNeverChanges : Prop :=
  ∀ s t : State, step s = .next t → t.static = s.static

/-- R26: BLIT does not read the stored orientation: two states that differ in it alone give the same trace,
statuses and levels. -/
def Obligations.BlitIgnoresTheStoredOrientation : Prop :=
  ∀ (s t u : State) (cols rows : Dim) (o : Orientation),
    exec (.blit cols rows) s = .next t → exec (.blit cols rows) { s with cfgOrient := o } = .next u →
      u.trace = t.trace ∧ u.responses = t.responses ∧ u.lc = t.lc ∧ u.rstLvl = t.rstLvl ∧ u.dcLvl = t.dcLvl

/-- R50, R51: only BLIT reads the pixel source: no other request's outcome depends on it. -/
def Obligations.OnlyBlitReadsThePixels : Prop :=
  ∀ (i : Instr) (s : State) (q : List PixCell), isRequest i = true → (∀ cols rows, i ≠ .blit cols rows) →
    exec i { s with pix := q } = exec i s

/-! ## The boundary invariant and the lifecycle -/

/-- The state right after reset is a request boundary (R31, R33 to R35, R38), with an empty trace (R280).  Its
configuration meets R7: the open pin identifiers are pairwise distinct (assumption log 4). -/
def Obligations.ResetIsABoundary : Prop := State.reset.Boundary ∧ State.reset.trace = []

/-- From every request boundary each step, whatever is presented and however the environment answers, reaches a
request boundary (R27, R28, R35, R65, R94, R96). -/
def Obligations.StepKeepsTheBoundary : Prop :=
  ∀ s t : State, s.Boundary → step s = .next t → t.Boundary

/-- From a request boundary the machine never stops. -/
def Obligations.BoundaryNeverStops : Prop :=
  ∀ s : State, s.Boundary → ∃ t, step s = .next t

/-- R25: the lifecycle transitions of the requests, and no others. -/
def Obligations.LifecycleTransitions : Prop :=
  ∀ (i : Instr) (s t : State) (e : Status), isRequest i = true → s.uncut (fullTrace i s) → exec i s = .next t →
    t.responses = s.responses ++ [e] →
      (i = .reset → (e = .ok ∧ t.lc = .resetting) ∨ (e = .transportError ∧ t.lc = .failed)) ∧
      (∀ o width height, i = .init o width height →
        (e = .ok ∧ t.lc = .ready) ∨ (e = .transportError ∧ t.lc = .failed) ∨
          (e = .configurationError ∧ t.lc = s.lc)) ∧
      (∀ pct, i = .bright pct → (e = .ok ∨ e = .transportError) ∧ t.lc = s.lc) ∧
      (i = .clear ∨ (∃ cols rows, i = .blit cols rows) →
        (e = .ok ∧ s.lc = .ready ∧ t.lc = .ready) ∨ (e = .transportError ∧ t.lc = .failed) ∨
          ((e = .prematureOperationError ∨ e = .invalidBufferShapeError) ∧ t.lc = s.lc))

/-- R260: READY is reached only by an INIT that answered OK. -/
def Obligations.OnlyInitReachesReady : Prop :=
  ∀ s t : State, s.busy = false → s.lc ≠ .ready → step s = .next t → t.lc = .ready →
    ∃ p rest o width height, s.port = .request p :: rest ∧
      decodeRequest p.word = .ok (.init o width height) ∧ width ≠ 0 ∧ height ≠ 0 ∧
      t.responses = s.responses ++ [.ok]

/-! ## The pixel codec, the chunks and the windows -/

/-- R151: the two bytes of a pixel are its 5, 6 and 5 high bits. -/
def Obligations.CodecKeepsTheHighBits : Prop :=
  ∀ r g b : Byte,
    (enc565Hi r g ++ enc565Lo g b : BitVec 16) =
      (r.extractLsb' 3 5 ++ g.extractLsb' 2 6 ++ b.extractLsb' 3 5 : BitVec 16)

/-- R155: white is encoded as the CLEAR byte twice, and exactly these pixels are encoded as white. -/
def Obligations.WhiteThresholds : Prop :=
  enc565 0xFFFFFF = [0xFF, 0xFF] ∧
  ∀ r g b : Byte, (enc565Hi r g = 0xFF ∧ enc565Lo g b = 0xFF) ↔
    0xF8 ≤ r.toNat ∧ 0xFC ≤ g.toNat ∧ 0xF8 ≤ b.toNat

/-- R152: a frame has two bytes for each pixel, pixel `i`'s high byte at `2i` and its low byte at `2i + 1`. -/
def Obligations.FrameHoldsEachPixelInOrder : Prop :=
  ∀ ps : List Pixel, (encodeFrame ps).length = 2 * ps.length ∧
    ∀ (i : Nat) (p : Pixel), ps[i]? = some p →
      (encodeFrame ps)[2 * i]? = some (enc565Hi (red p) (green p)) ∧
      (encodeFrame ps)[2 * i + 1]? = some (enc565Lo (green p) (blue p))

/-- R51, R52: the pixels of a BLIT are the host's, in index order, and each one the host keeps stable is read as
it is; there are exactly as many as are asked for. -/
def Obligations.StablePixelsAreReadInOrder : Prop :=
  ∀ (cs : List PixCell) (d n i : Nat) (p : Pixel),
    (readPixels cs d n).length = n ∧
    (i < n → cs[i]? = some (.stable p) → (readPixels cs d n)[i]? = some p)

/-- R114: the chunks of a block: how many, how long each is, and that in order they are the block. -/
def Obligations.ChunksPartitionTheBlock : Prop :=
  ∀ (c : Nat) (bs : List Byte), 0 < c →
    (chunks c bs).length = ceilDiv bs.length c ∧
    (chunks c bs).flatten = bs ∧
    (∀ ch ∈ chunks c bs, 1 ≤ ch.length ∧ ch.length ≤ c) ∧
    (∀ (k : Nat) (ch : List Byte), (chunks c bs)[k]? = some ch → k + 1 < ceilDiv bs.length c →
      ch.length = c) ∧
    (∀ (k : Nat) (ch : List Byte), (chunks c bs)[k]? = some ch → k + 1 = ceilDiv bs.length c →
      ch.length = bs.length - c * (ceilDiv bs.length c - 1)) ∧
    (∀ (k : Nat) (ch : List Byte), (chunks c bs)[k]? = some ch → ch = (bs.drop (k * c)).take c)

/-- R58: with an even `CHUNK`, each chunk of a frame is the encoding of whole pixels. -/
def Obligations.ChunksNeverSplitAPixel : Prop :=
  ∀ (c : Config) (ps : List Pixel) (k : Nat), c.wf = true →
    chunkAt c.chunk (encodeFrame ps) k =
      encodeFrame ((ps.drop (k * (c.chunk / 2))).take (c.chunk / 2))

/-- R131, R132, R136: for a valid rectangle and a configuration of R7 the window's bounds are exact: the offset
on exactly one axis, the ends inclusive, nothing lost to 16 bits. -/
def Obligations.WindowBoundsAreExact : Prop :=
  ∀ (c : Config) (r : Rect) (o : Orientation), c.wf = true → r.valid = true →
    let win := resolveWindow c.offset r o
    (o = .landscape →
      win.c0.toNat = r.xStart + c.offset ∧ win.c1.toNat + 1 = r.xEnd + c.offset ∧
      win.r0.toNat = r.yStart ∧ win.r1.toNat + 1 = r.yEnd) ∧
    (o = .portrait →
      win.c0.toNat = r.xStart ∧ win.c1.toNat + 1 = r.xEnd ∧
      win.r0.toNat = r.yStart + c.offset ∧ win.r1.toNat + 1 = r.yEnd + c.offset) ∧
    win.c0.toNat ≤ 4094 + c.offset ∧ win.c1.toNat ≤ 4094 + c.offset ∧
    win.r0.toNat ≤ 4094 + c.offset ∧ win.r1.toNat ≤ 4094 + c.offset

/-- R135: a window one pixel wide sends the same start and end bytes; so does one of one row. -/
def Obligations.SinglePixelWindow : Prop :=
  ∀ (offset : Nat) (r : Rect) (o : Orientation),
    let win := resolveWindow offset r o
    (r.xEnd = r.xStart + 1 → win.c1 = win.c0 ∧
      boundBytes win.c0 win.c1 = [hiByte win.c0, loByte win.c0, hiByte win.c0, loByte win.c0]) ∧
    (r.yEnd = r.yStart + 1 → win.r1 = win.r0 ∧
      boundBytes win.r0 win.r1 = [hiByte win.r0, loByte win.r0, hiByte win.r0, loByte win.r0])

/-- R232: the data block after 0x2C fills the window exactly, for CLEAR and on both BLIT paths. -/
def Obligations.PayloadFillsTheWindow : Prop :=
  ∀ (s : State) (cols rows : Dim), s.static.wf = true → s.cfgW ≠ 0 → s.cfgH ≠ 0 →
    let area (win : Window) : Nat :=
      (win.c1.toNat + 1 - win.c0.toNat) * (win.r1.toNat + 1 - win.r0.toNat)
    (List.replicate (2 * s.cfgW.toNat * s.cfgH.toNat) (0xFF : Byte)).length =
      2 * area (resolveWindow s.static.offset (fullRect s.cfgOrient s.cfgW s.cfgH) s.cfgOrient) ∧
    (cols = s.cfgW → rows = s.cfgH → (frameOf s cols rows).length =
      2 * area (resolveWindow s.static.offset ⟨0, 0, s.cfgW.toNat, s.cfgH.toNat⟩ .landscape)) ∧
    (cols = s.cfgH → rows = s.cfgW → (frameOf s cols rows).length =
      2 * area (resolveWindow s.static.offset ⟨0, 0, s.cfgH.toNat, s.cfgW.toNat⟩ .portrait))

/-- R178: the clamp, the duty fraction, and that saturating to 16 bits first makes no difference. -/
def Obligations.ClampSaturates : Prop :=
  ∀ p : Int,
    ((clampPercent p).toNat : Int) = (if p < 0 then 0 else if p > 100 then 100 else p) ∧
    (∀ hz, (⟨hz, (clampPercent p).toNat⟩ : PwmOut).duty =
      ((if p < 0 then 0 else if p > 100 then 100 else p : Int) : ℚ) / 100) ∧
    clampPercent (max (-32768) (min 32767 p)) = clampPercent p

/-! ## Reset, construction and outputs -/

/-- R38: the reset value of every field of the block. -/
def Obligations.ResetValues : Prop :=
  State.reset.lc = .unreset ∧ State.reset.blPct = 0 ∧ State.reset.rstLvl = .low ∧ State.reset.dcLvl = .low ∧
  State.reset.cfgOrient = .landscape ∧ State.reset.cfgW = 0 ∧ State.reset.cfgH = 0 ∧
  State.reset.busy = false ∧ State.reset.buf = [] ∧ State.reset.seq = []

/-- R7, R252: exactly the configurations that meet R7 give a block, and it starts at reset.  That `DIM_BITS` must
be 12 beside R7 is the model's reading (assumption log 21). -/
def Obligations.ConstructionChecksTheConfiguration : Prop :=
  ∀ c : Config,
    ((∃ s, construct c = .ok s) ↔
      2 ≤ c.chunk ∧ c.chunk % 2 = 0 ∧ c.offset + (2 ^ c.dimBits - 2) ≤ 0xFFFF ∧ c.dimBits = 12 ∧
      0 < c.spiMaxHz ∧ 0 < c.pwmHz ∧
      c.pinRst ≠ c.pinDc ∧ c.pinRst ≠ c.pinBl ∧ c.pinDc ≠ c.pinBl) ∧
    (∀ s, construct c = .ok s → s.atReset ∧ s.static = c) ∧
    (∀ e, construct c = .error e → e = .configurationError)

/-- R36, R264: the outputs show the state: the levels, and a backlight that is dark at duty 0 and fully on at
duty 100.  Then the numbers shown: the transport's configuration (R6), the six status codes on the response (R251)
and the five values of the lifecycle register (R24). -/
def Obligations.OutputsShowTheState : Prop :=
  ∀ s : State, rstOutput s = s.rstLvl ∧ dcOutput s = s.dcLvl ∧
    (blOutput s).frequencyHz = s.static.pwmHz ∧ (blOutput s).duty = (s.blPct.toNat : ℚ) / 100 ∧
    (∀ x : ℚ, 0 ≤ x → s.blPct = 0 → (blOutput s).levelAt x = .low) ∧
    (∀ x : ℚ, x < 1 → s.blPct = 100 → (blOutput s).levelAt x = .high) ∧
    transportSetup s = (s.static.spiMaxHz, s.static.spiMode) ∧
    statusCode .ok = 0 ∧ statusCode .configurationError = 1 ∧ statusCode .transportError = 2 ∧
    statusCode .invalidBufferShapeError = 3 ∧ statusCode .prematureOperationError = 4 ∧
    statusCode .illegalRequest = 5 ∧
    lifecycleCode .unreset = 0 ∧ lifecycleCode .resetting = 1 ∧ lifecycleCode .initializing = 2 ∧
    lifecycleCode .ready = 3 ∧ lifecycleCode .failed = 4

/-- R6: the value column.  The source's literals are unaudited (D26; assumption log 2), and the open pin
identifiers are distinct (assumption log 4). -/
def Obligations.SourceConfigurationValues : Prop :=
  let c := State.reset.static
  c.chunk = 4096 ∧ c.offset = 20 ∧ c.tRstMs = 10 ∧ c.tWakeMs = 100 ∧ c.macLandscape = 0x70 ∧
  c.macPortrait = 0x00 ∧ transportSetup State.reset = (40000000, 0) ∧ c.pwmHz = 1000 ∧ c.dimBits = 12 ∧
  c.pinRst ≠ c.pinDc ∧ c.pinRst ≠ c.pinBl ∧ c.pinDc ≠ c.pinBl
end

