-- ==== Sys2Proof/Laws/State.lean ====
section
/-! SUPPORT. One lemma per field per update of State, so that no proof unfolds a record update; and what a
configuration of R7 gives the arithmetic of windows and chunks. -/

namespace Sys2Proof

/-- The numeric consequences of R7, so that no proof unfolds `Config.wf`. -/
theorem Config.wf_bounds {c : Config} (h : c.wf = true) :
    2 ≤ c.chunk ∧ c.chunk % 2 = 0 ∧ c.dimBits = 12 ∧ c.offset + 4094 ≤ 0xFFFF := by
  simp only [Config.wf, Bool.and_eq_true, decide_eq_true_eq] at h
  obtain ⟨⟨⟨⟨⟨⟨⟨⟨h2, heven⟩, hoff⟩, hdim⟩, _⟩, _⟩, _⟩, _⟩, _⟩ := h
  rw [hdim] at hoff
  exact ⟨h2, heven, hdim, by omega⟩

end Sys2Proof

namespace Sys2Proof.Machine

variable (s : State)

/-! `withSeq` -/

@[simp] theorem withSeq_lc (r : List SeqOp) : (s.withSeq r).lc = s.lc := rfl
@[simp] theorem withSeq_cfgOrient (r : List SeqOp) : (s.withSeq r).cfgOrient = s.cfgOrient := rfl
@[simp] theorem withSeq_cfgW (r : List SeqOp) : (s.withSeq r).cfgW = s.cfgW := rfl
@[simp] theorem withSeq_cfgH (r : List SeqOp) : (s.withSeq r).cfgH = s.cfgH := rfl
@[simp] theorem withSeq_blPct (r : List SeqOp) : (s.withSeq r).blPct = s.blPct := rfl
@[simp] theorem withSeq_rstLvl (r : List SeqOp) : (s.withSeq r).rstLvl = s.rstLvl := rfl
@[simp] theorem withSeq_dcLvl (r : List SeqOp) : (s.withSeq r).dcLvl = s.dcLvl := rfl
@[simp] theorem withSeq_busy (r : List SeqOp) : (s.withSeq r).busy = s.busy := rfl
@[simp] theorem withSeq_seq (r : List SeqOp) : (s.withSeq r).seq = r := rfl
@[simp] theorem withSeq_buf (r : List SeqOp) : (s.withSeq r).buf = s.buf := rfl
@[simp] theorem withSeq_static (r : List SeqOp) : (s.withSeq r).static = s.static := rfl
@[simp] theorem withSeq_port (r : List SeqOp) : (s.withSeq r).port = s.port := rfl
@[simp] theorem withSeq_pix (r : List SeqOp) : (s.withSeq r).pix = s.pix := rfl
@[simp] theorem withSeq_answers (r : List SeqOp) : (s.withSeq r).answers = s.answers := rfl
@[simp] theorem withSeq_cut (r : List SeqOp) : (s.withSeq r).cut = s.cut := rfl
@[simp] theorem withSeq_answerDraws (r : List SeqOp) : (s.withSeq r).answerDraws = s.answerDraws := rfl
@[simp] theorem withSeq_pixelDraws (r : List SeqOp) : (s.withSeq r).pixelDraws = s.pixelDraws := rfl
@[simp] theorem withSeq_trace (r : List SeqOp) : (s.withSeq r).trace = s.trace := rfl
@[simp] theorem withSeq_responses (r : List SeqOp) : (s.withSeq r).responses = s.responses := rfl

/-! `withBusy` -/

@[simp] theorem withBusy_lc (b : Bool) : (s.withBusy b).lc = s.lc := rfl
@[simp] theorem withBusy_cfgOrient (b : Bool) : (s.withBusy b).cfgOrient = s.cfgOrient := rfl
@[simp] theorem withBusy_cfgW (b : Bool) : (s.withBusy b).cfgW = s.cfgW := rfl
@[simp] theorem withBusy_cfgH (b : Bool) : (s.withBusy b).cfgH = s.cfgH := rfl
@[simp] theorem withBusy_blPct (b : Bool) : (s.withBusy b).blPct = s.blPct := rfl
@[simp] theorem withBusy_rstLvl (b : Bool) : (s.withBusy b).rstLvl = s.rstLvl := rfl
@[simp] theorem withBusy_dcLvl (b : Bool) : (s.withBusy b).dcLvl = s.dcLvl := rfl
@[simp] theorem withBusy_busy (b : Bool) : (s.withBusy b).busy = b := rfl
@[simp] theorem withBusy_seq (b : Bool) : (s.withBusy b).seq = s.seq := rfl
@[simp] theorem withBusy_buf (b : Bool) : (s.withBusy b).buf = s.buf := rfl
@[simp] theorem withBusy_static (b : Bool) : (s.withBusy b).static = s.static := rfl
@[simp] theorem withBusy_port (b : Bool) : (s.withBusy b).port = s.port := rfl
@[simp] theorem withBusy_pix (b : Bool) : (s.withBusy b).pix = s.pix := rfl
@[simp] theorem withBusy_answers (b : Bool) : (s.withBusy b).answers = s.answers := rfl
@[simp] theorem withBusy_cut (b : Bool) : (s.withBusy b).cut = s.cut := rfl
@[simp] theorem withBusy_answerDraws (b : Bool) : (s.withBusy b).answerDraws = s.answerDraws := rfl
@[simp] theorem withBusy_pixelDraws (b : Bool) : (s.withBusy b).pixelDraws = s.pixelDraws := rfl
@[simp] theorem withBusy_trace (b : Bool) : (s.withBusy b).trace = s.trace := rfl
@[simp] theorem withBusy_responses (b : Bool) : (s.withBusy b).responses = s.responses := rfl

/-! `withLc` -/

@[simp] theorem withLc_lc (l : Lifecycle) : (s.withLc l).lc = l := rfl
@[simp] theorem withLc_cfgOrient (l : Lifecycle) : (s.withLc l).cfgOrient = s.cfgOrient := rfl
@[simp] theorem withLc_cfgW (l : Lifecycle) : (s.withLc l).cfgW = s.cfgW := rfl
@[simp] theorem withLc_cfgH (l : Lifecycle) : (s.withLc l).cfgH = s.cfgH := rfl
@[simp] theorem withLc_blPct (l : Lifecycle) : (s.withLc l).blPct = s.blPct := rfl
@[simp] theorem withLc_rstLvl (l : Lifecycle) : (s.withLc l).rstLvl = s.rstLvl := rfl
@[simp] theorem withLc_dcLvl (l : Lifecycle) : (s.withLc l).dcLvl = s.dcLvl := rfl
@[simp] theorem withLc_busy (l : Lifecycle) : (s.withLc l).busy = s.busy := rfl
@[simp] theorem withLc_seq (l : Lifecycle) : (s.withLc l).seq = s.seq := rfl
@[simp] theorem withLc_buf (l : Lifecycle) : (s.withLc l).buf = s.buf := rfl
@[simp] theorem withLc_static (l : Lifecycle) : (s.withLc l).static = s.static := rfl
@[simp] theorem withLc_port (l : Lifecycle) : (s.withLc l).port = s.port := rfl
@[simp] theorem withLc_pix (l : Lifecycle) : (s.withLc l).pix = s.pix := rfl
@[simp] theorem withLc_answers (l : Lifecycle) : (s.withLc l).answers = s.answers := rfl
@[simp] theorem withLc_cut (l : Lifecycle) : (s.withLc l).cut = s.cut := rfl
@[simp] theorem withLc_answerDraws (l : Lifecycle) : (s.withLc l).answerDraws = s.answerDraws := rfl
@[simp] theorem withLc_pixelDraws (l : Lifecycle) : (s.withLc l).pixelDraws = s.pixelDraws := rfl
@[simp] theorem withLc_trace (l : Lifecycle) : (s.withLc l).trace = s.trace := rfl
@[simp] theorem withLc_responses (l : Lifecycle) : (s.withLc l).responses = s.responses := rfl

/-! `withCfg` -/

@[simp] theorem withCfg_lc (o : Orientation) (w h : Dim) : (s.withCfg o w h).lc = s.lc := rfl
@[simp] theorem withCfg_cfgOrient (o : Orientation) (w h : Dim) : (s.withCfg o w h).cfgOrient = o := rfl
@[simp] theorem withCfg_cfgW (o : Orientation) (w h : Dim) : (s.withCfg o w h).cfgW = w := rfl
@[simp] theorem withCfg_cfgH (o : Orientation) (w h : Dim) : (s.withCfg o w h).cfgH = h := rfl
@[simp] theorem withCfg_blPct (o : Orientation) (w h : Dim) : (s.withCfg o w h).blPct = s.blPct := rfl
@[simp] theorem withCfg_rstLvl (o : Orientation) (w h : Dim) : (s.withCfg o w h).rstLvl = s.rstLvl := rfl
@[simp] theorem withCfg_dcLvl (o : Orientation) (w h : Dim) : (s.withCfg o w h).dcLvl = s.dcLvl := rfl
@[simp] theorem withCfg_busy (o : Orientation) (w h : Dim) : (s.withCfg o w h).busy = s.busy := rfl
@[simp] theorem withCfg_seq (o : Orientation) (w h : Dim) : (s.withCfg o w h).seq = s.seq := rfl
@[simp] theorem withCfg_buf (o : Orientation) (w h : Dim) : (s.withCfg o w h).buf = s.buf := rfl
@[simp] theorem withCfg_static (o : Orientation) (w h : Dim) : (s.withCfg o w h).static = s.static := rfl
@[simp] theorem withCfg_port (o : Orientation) (w h : Dim) : (s.withCfg o w h).port = s.port := rfl
@[simp] theorem withCfg_pix (o : Orientation) (w h : Dim) : (s.withCfg o w h).pix = s.pix := rfl
@[simp] theorem withCfg_answers (o : Orientation) (w h : Dim) : (s.withCfg o w h).answers = s.answers := rfl
@[simp] theorem withCfg_cut (o : Orientation) (w h : Dim) : (s.withCfg o w h).cut = s.cut := rfl
@[simp] theorem withCfg_answerDraws (o : Orientation) (w h : Dim) : (s.withCfg o w h).answerDraws = s.answerDraws := rfl
@[simp] theorem withCfg_pixelDraws (o : Orientation) (w h : Dim) : (s.withCfg o w h).pixelDraws = s.pixelDraws := rfl
@[simp] theorem withCfg_trace (o : Orientation) (w h : Dim) : (s.withCfg o w h).trace = s.trace := rfl
@[simp] theorem withCfg_responses (o : Orientation) (w h : Dim) : (s.withCfg o w h).responses = s.responses := rfl

/-! `withBl` -/

@[simp] theorem withBl_lc (q : BitVec 7) : (s.withBl q).lc = s.lc := rfl
@[simp] theorem withBl_cfgOrient (q : BitVec 7) : (s.withBl q).cfgOrient = s.cfgOrient := rfl
@[simp] theorem withBl_cfgW (q : BitVec 7) : (s.withBl q).cfgW = s.cfgW := rfl
@[simp] theorem withBl_cfgH (q : BitVec 7) : (s.withBl q).cfgH = s.cfgH := rfl
@[simp] theorem withBl_blPct (q : BitVec 7) : (s.withBl q).blPct = q := rfl
@[simp] theorem withBl_rstLvl (q : BitVec 7) : (s.withBl q).rstLvl = s.rstLvl := rfl
@[simp] theorem withBl_dcLvl (q : BitVec 7) : (s.withBl q).dcLvl = s.dcLvl := rfl
@[simp] theorem withBl_busy (q : BitVec 7) : (s.withBl q).busy = s.busy := rfl
@[simp] theorem withBl_seq (q : BitVec 7) : (s.withBl q).seq = s.seq := rfl
@[simp] theorem withBl_buf (q : BitVec 7) : (s.withBl q).buf = s.buf := rfl
@[simp] theorem withBl_static (q : BitVec 7) : (s.withBl q).static = s.static := rfl
@[simp] theorem withBl_port (q : BitVec 7) : (s.withBl q).port = s.port := rfl
@[simp] theorem withBl_pix (q : BitVec 7) : (s.withBl q).pix = s.pix := rfl
@[simp] theorem withBl_answers (q : BitVec 7) : (s.withBl q).answers = s.answers := rfl
@[simp] theorem withBl_cut (q : BitVec 7) : (s.withBl q).cut = s.cut := rfl
@[simp] theorem withBl_answerDraws (q : BitVec 7) : (s.withBl q).answerDraws = s.answerDraws := rfl
@[simp] theorem withBl_pixelDraws (q : BitVec 7) : (s.withBl q).pixelDraws = s.pixelDraws := rfl
@[simp] theorem withBl_trace (q : BitVec 7) : (s.withBl q).trace = s.trace := rfl
@[simp] theorem withBl_responses (q : BitVec 7) : (s.withBl q).responses = s.responses := rfl

/-! `fillBuf` -/

@[simp] theorem fillBuf_lc (n : Nat) : (s.fillBuf n).lc = s.lc := rfl
@[simp] theorem fillBuf_cfgOrient (n : Nat) : (s.fillBuf n).cfgOrient = s.cfgOrient := rfl
@[simp] theorem fillBuf_cfgW (n : Nat) : (s.fillBuf n).cfgW = s.cfgW := rfl
@[simp] theorem fillBuf_cfgH (n : Nat) : (s.fillBuf n).cfgH = s.cfgH := rfl
@[simp] theorem fillBuf_blPct (n : Nat) : (s.fillBuf n).blPct = s.blPct := rfl
@[simp] theorem fillBuf_rstLvl (n : Nat) : (s.fillBuf n).rstLvl = s.rstLvl := rfl
@[simp] theorem fillBuf_dcLvl (n : Nat) : (s.fillBuf n).dcLvl = s.dcLvl := rfl
@[simp] theorem fillBuf_busy (n : Nat) : (s.fillBuf n).busy = s.busy := rfl
@[simp] theorem fillBuf_seq (n : Nat) : (s.fillBuf n).seq = s.seq := rfl
@[simp] theorem fillBuf_buf (n : Nat) : (s.fillBuf n).buf = List.replicate n 0xFF := rfl
@[simp] theorem fillBuf_static (n : Nat) : (s.fillBuf n).static = s.static := rfl
@[simp] theorem fillBuf_port (n : Nat) : (s.fillBuf n).port = s.port := rfl
@[simp] theorem fillBuf_pix (n : Nat) : (s.fillBuf n).pix = s.pix := rfl
@[simp] theorem fillBuf_answers (n : Nat) : (s.fillBuf n).answers = s.answers := rfl
@[simp] theorem fillBuf_cut (n : Nat) : (s.fillBuf n).cut = s.cut := rfl
@[simp] theorem fillBuf_answerDraws (n : Nat) : (s.fillBuf n).answerDraws = s.answerDraws := rfl
@[simp] theorem fillBuf_pixelDraws (n : Nat) : (s.fillBuf n).pixelDraws = s.pixelDraws := rfl
@[simp] theorem fillBuf_trace (n : Nat) : (s.fillBuf n).trace = s.trace := rfl
@[simp] theorem fillBuf_responses (n : Nat) : (s.fillBuf n).responses = s.responses := rfl

/-! `encodeBuf` -/

@[simp] theorem encodeBuf_lc (n : Nat) : (s.encodeBuf n).lc = s.lc := rfl
@[simp] theorem encodeBuf_cfgOrient (n : Nat) : (s.encodeBuf n).cfgOrient = s.cfgOrient := rfl
@[simp] theorem encodeBuf_cfgW (n : Nat) : (s.encodeBuf n).cfgW = s.cfgW := rfl
@[simp] theorem encodeBuf_cfgH (n : Nat) : (s.encodeBuf n).cfgH = s.cfgH := rfl
@[simp] theorem encodeBuf_blPct (n : Nat) : (s.encodeBuf n).blPct = s.blPct := rfl
@[simp] theorem encodeBuf_rstLvl (n : Nat) : (s.encodeBuf n).rstLvl = s.rstLvl := rfl
@[simp] theorem encodeBuf_dcLvl (n : Nat) : (s.encodeBuf n).dcLvl = s.dcLvl := rfl
@[simp] theorem encodeBuf_busy (n : Nat) : (s.encodeBuf n).busy = s.busy := rfl
@[simp] theorem encodeBuf_seq (n : Nat) : (s.encodeBuf n).seq = s.seq := rfl
@[simp] theorem encodeBuf_buf (n : Nat) : (s.encodeBuf n).buf = encodeFrame (readPixels s.pix s.pixelDraws n) := rfl
@[simp] theorem encodeBuf_static (n : Nat) : (s.encodeBuf n).static = s.static := rfl
@[simp] theorem encodeBuf_port (n : Nat) : (s.encodeBuf n).port = s.port := rfl
@[simp] theorem encodeBuf_pix (n : Nat) : (s.encodeBuf n).pix = s.pix := rfl
@[simp] theorem encodeBuf_answers (n : Nat) : (s.encodeBuf n).answers = s.answers := rfl
@[simp] theorem encodeBuf_cut (n : Nat) : (s.encodeBuf n).cut = s.cut := rfl
@[simp] theorem encodeBuf_answerDraws (n : Nat) : (s.encodeBuf n).answerDraws = s.answerDraws := rfl
@[simp] theorem encodeBuf_pixelDraws (n : Nat) : (s.encodeBuf n).pixelDraws = s.pixelDraws + n := rfl
@[simp] theorem encodeBuf_trace (n : Nat) : (s.encodeBuf n).trace = s.trace := rfl
@[simp] theorem encodeBuf_responses (n : Nat) : (s.encodeBuf n).responses = s.responses := rfl

/-! `emit` -/

@[simp] theorem emit_lc (e : Event) : (s.emit e).lc = s.lc := rfl
@[simp] theorem emit_cfgOrient (e : Event) : (s.emit e).cfgOrient = s.cfgOrient := rfl
@[simp] theorem emit_cfgW (e : Event) : (s.emit e).cfgW = s.cfgW := rfl
@[simp] theorem emit_cfgH (e : Event) : (s.emit e).cfgH = s.cfgH := rfl
@[simp] theorem emit_blPct (e : Event) : (s.emit e).blPct = s.blPct := rfl
@[simp] theorem emit_rstLvl (e : Event) : (s.emit e).rstLvl = s.rstLvl := rfl
@[simp] theorem emit_dcLvl (e : Event) : (s.emit e).dcLvl = s.dcLvl := rfl
@[simp] theorem emit_busy (e : Event) : (s.emit e).busy = s.busy := rfl
@[simp] theorem emit_seq (e : Event) : (s.emit e).seq = s.seq := rfl
@[simp] theorem emit_buf (e : Event) : (s.emit e).buf = s.buf := rfl
@[simp] theorem emit_static (e : Event) : (s.emit e).static = s.static := rfl
@[simp] theorem emit_port (e : Event) : (s.emit e).port = s.port := rfl
@[simp] theorem emit_pix (e : Event) : (s.emit e).pix = s.pix := rfl
@[simp] theorem emit_answers (e : Event) : (s.emit e).answers = s.answers := rfl
@[simp] theorem emit_cut (e : Event) : (s.emit e).cut = s.cut.map (· - 1) := rfl
@[simp] theorem emit_answerDraws (e : Event) : (s.emit e).answerDraws = s.answerDraws := rfl
@[simp] theorem emit_pixelDraws (e : Event) : (s.emit e).pixelDraws = s.pixelDraws := rfl
@[simp] theorem emit_trace (e : Event) : (s.emit e).trace = s.trace ++ [e] := rfl
@[simp] theorem emit_responses (e : Event) : (s.emit e).responses = s.responses := rfl

/-! `dropAnswer` -/

@[simp] theorem dropAnswer_lc : (s.dropAnswer).lc = s.lc := by
  unfold State.dropAnswer; split <;> simp_all
@[simp] theorem dropAnswer_cfgOrient : (s.dropAnswer).cfgOrient = s.cfgOrient := by
  unfold State.dropAnswer; split <;> simp_all
@[simp] theorem dropAnswer_cfgW : (s.dropAnswer).cfgW = s.cfgW := by
  unfold State.dropAnswer; split <;> simp_all
@[simp] theorem dropAnswer_cfgH : (s.dropAnswer).cfgH = s.cfgH := by
  unfold State.dropAnswer; split <;> simp_all
@[simp] theorem dropAnswer_blPct : (s.dropAnswer).blPct = s.blPct := by
  unfold State.dropAnswer; split <;> simp_all
@[simp] theorem dropAnswer_rstLvl : (s.dropAnswer).rstLvl = s.rstLvl := by
  unfold State.dropAnswer; split <;> simp_all
@[simp] theorem dropAnswer_dcLvl : (s.dropAnswer).dcLvl = s.dcLvl := by
  unfold State.dropAnswer; split <;> simp_all
@[simp] theorem dropAnswer_busy : (s.dropAnswer).busy = s.busy := by
  unfold State.dropAnswer; split <;> simp_all
@[simp] theorem dropAnswer_seq : (s.dropAnswer).seq = s.seq := by
  unfold State.dropAnswer; split <;> simp_all
@[simp] theorem dropAnswer_buf : (s.dropAnswer).buf = s.buf := by
  unfold State.dropAnswer; split <;> simp_all
@[simp] theorem dropAnswer_static : (s.dropAnswer).static = s.static := by
  unfold State.dropAnswer; split <;> simp_all
@[simp] theorem dropAnswer_port : (s.dropAnswer).port = s.port := by
  unfold State.dropAnswer; split <;> simp_all
@[simp] theorem dropAnswer_pix : (s.dropAnswer).pix = s.pix := by
  unfold State.dropAnswer; split <;> simp_all
@[simp] theorem dropAnswer_answers : (s.dropAnswer).answers = s.answers.tail := by
  unfold State.dropAnswer; split <;> simp_all
@[simp] theorem dropAnswer_cut : (s.dropAnswer).cut = s.cut := by
  unfold State.dropAnswer; split <;> simp_all
@[simp] theorem dropAnswer_answerDraws : (s.dropAnswer).answerDraws = s.answerDraws + (1 - s.answers.length) := by
  unfold State.dropAnswer; split <;> simp_all
@[simp] theorem dropAnswer_pixelDraws : (s.dropAnswer).pixelDraws = s.pixelDraws := by
  unfold State.dropAnswer; split <;> simp_all
@[simp] theorem dropAnswer_trace : (s.dropAnswer).trace = s.trace := by
  unfold State.dropAnswer; split <;> simp_all
@[simp] theorem dropAnswer_responses : (s.dropAnswer).responses = s.responses := by
  unfold State.dropAnswer; split <;> simp_all

/-! `setLevel` -/

@[simp] theorem setLevel_lc (a : Action) : (s.setLevel a).lc = s.lc := by
  unfold State.setLevel; split <;> rfl
@[simp] theorem setLevel_cfgOrient (a : Action) : (s.setLevel a).cfgOrient = s.cfgOrient := by
  unfold State.setLevel; split <;> rfl
@[simp] theorem setLevel_cfgW (a : Action) : (s.setLevel a).cfgW = s.cfgW := by
  unfold State.setLevel; split <;> rfl
@[simp] theorem setLevel_cfgH (a : Action) : (s.setLevel a).cfgH = s.cfgH := by
  unfold State.setLevel; split <;> rfl
@[simp] theorem setLevel_blPct (a : Action) : (s.setLevel a).blPct = s.blPct := by
  unfold State.setLevel; split <;> rfl
@[simp] theorem setLevel_busy (a : Action) : (s.setLevel a).busy = s.busy := by
  unfold State.setLevel; split <;> rfl
@[simp] theorem setLevel_seq (a : Action) : (s.setLevel a).seq = s.seq := by
  unfold State.setLevel; split <;> rfl
@[simp] theorem setLevel_buf (a : Action) : (s.setLevel a).buf = s.buf := by
  unfold State.setLevel; split <;> rfl
@[simp] theorem setLevel_static (a : Action) : (s.setLevel a).static = s.static := by
  unfold State.setLevel; split <;> rfl
@[simp] theorem setLevel_port (a : Action) : (s.setLevel a).port = s.port := by
  unfold State.setLevel; split <;> rfl
@[simp] theorem setLevel_pix (a : Action) : (s.setLevel a).pix = s.pix := by
  unfold State.setLevel; split <;> rfl
@[simp] theorem setLevel_answers (a : Action) : (s.setLevel a).answers = s.answers := by
  unfold State.setLevel; split <;> rfl
@[simp] theorem setLevel_cut (a : Action) : (s.setLevel a).cut = s.cut := by
  unfold State.setLevel; split <;> rfl
@[simp] theorem setLevel_answerDraws (a : Action) : (s.setLevel a).answerDraws = s.answerDraws := by
  unfold State.setLevel; split <;> rfl
@[simp] theorem setLevel_pixelDraws (a : Action) : (s.setLevel a).pixelDraws = s.pixelDraws := by
  unfold State.setLevel; split <;> rfl
@[simp] theorem setLevel_trace (a : Action) : (s.setLevel a).trace = s.trace := by
  unfold State.setLevel; split <;> rfl
@[simp] theorem setLevel_responses (a : Action) : (s.setLevel a).responses = s.responses := by
  unfold State.setLevel; split <;> rfl

/-! `blockReset` -/

@[simp] theorem blockReset_lc : (blockReset s).lc = .unreset := rfl
@[simp] theorem blockReset_cfgOrient : (blockReset s).cfgOrient = .landscape := rfl
@[simp] theorem blockReset_cfgW : (blockReset s).cfgW = 0 := rfl
@[simp] theorem blockReset_cfgH : (blockReset s).cfgH = 0 := rfl
@[simp] theorem blockReset_blPct : (blockReset s).blPct = 0 := rfl
@[simp] theorem blockReset_rstLvl : (blockReset s).rstLvl = .low := rfl
@[simp] theorem blockReset_dcLvl : (blockReset s).dcLvl = .low := rfl
@[simp] theorem blockReset_busy : (blockReset s).busy = false := rfl
@[simp] theorem blockReset_seq : (blockReset s).seq = [] := rfl
@[simp] theorem blockReset_buf : (blockReset s).buf = [] := rfl
@[simp] theorem blockReset_static : (blockReset s).static = s.static := rfl
@[simp] theorem blockReset_port : (blockReset s).port = s.port := rfl
@[simp] theorem blockReset_pix : (blockReset s).pix = [] := rfl
@[simp] theorem blockReset_answers : (blockReset s).answers = [] := rfl
@[simp] theorem blockReset_cut : (blockReset s).cut = none := rfl
@[simp] theorem blockReset_answerDraws : (blockReset s).answerDraws = s.answerDraws := rfl
@[simp] theorem blockReset_pixelDraws : (blockReset s).pixelDraws = s.pixelDraws := rfl
@[simp] theorem blockReset_trace : (blockReset s).trace = s.trace := rfl
@[simp] theorem blockReset_responses : (blockReset s).responses = s.responses := rfl

/-! `accept` -/

@[simp] theorem accept_lc (p : Presented) (rest : List Stimulus) : (accept p rest s).lc = s.lc := rfl
@[simp] theorem accept_cfgOrient (p : Presented) (rest : List Stimulus) : (accept p rest s).cfgOrient = s.cfgOrient := rfl
@[simp] theorem accept_cfgW (p : Presented) (rest : List Stimulus) : (accept p rest s).cfgW = s.cfgW := rfl
@[simp] theorem accept_cfgH (p : Presented) (rest : List Stimulus) : (accept p rest s).cfgH = s.cfgH := rfl
@[simp] theorem accept_blPct (p : Presented) (rest : List Stimulus) : (accept p rest s).blPct = s.blPct := rfl
@[simp] theorem accept_rstLvl (p : Presented) (rest : List Stimulus) : (accept p rest s).rstLvl = s.rstLvl := rfl
@[simp] theorem accept_dcLvl (p : Presented) (rest : List Stimulus) : (accept p rest s).dcLvl = s.dcLvl := rfl
@[simp] theorem accept_busy (p : Presented) (rest : List Stimulus) : (accept p rest s).busy = s.busy := rfl
@[simp] theorem accept_seq (p : Presented) (rest : List Stimulus) : (accept p rest s).seq = s.seq := rfl
@[simp] theorem accept_buf (p : Presented) (rest : List Stimulus) : (accept p rest s).buf = s.buf := rfl
@[simp] theorem accept_static (p : Presented) (rest : List Stimulus) : (accept p rest s).static = s.static := rfl
@[simp] theorem accept_port (p : Presented) (rest : List Stimulus) : (accept p rest s).port = rest := rfl
@[simp] theorem accept_pix (p : Presented) (rest : List Stimulus) : (accept p rest s).pix = p.pix := rfl
@[simp] theorem accept_answers (p : Presented) (rest : List Stimulus) : (accept p rest s).answers = p.answers := rfl
@[simp] theorem accept_cut (p : Presented) (rest : List Stimulus) : (accept p rest s).cut = p.cut := rfl
@[simp] theorem accept_answerDraws (p : Presented) (rest : List Stimulus) : (accept p rest s).answerDraws = s.answerDraws := rfl
@[simp] theorem accept_pixelDraws (p : Presented) (rest : List Stimulus) : (accept p rest s).pixelDraws = s.pixelDraws := rfl
@[simp] theorem accept_trace (p : Presented) (rest : List Stimulus) : (accept p rest s).trace = s.trace := rfl
@[simp] theorem accept_responses (p : Presented) (rest : List Stimulus) : (accept p rest s).responses = s.responses := rfl

/-! `after` -/

@[simp] theorem after_lc (evs : List Event) : (s.after evs).lc = s.lc := rfl
@[simp] theorem after_cfgOrient (evs : List Event) : (s.after evs).cfgOrient = s.cfgOrient := rfl
@[simp] theorem after_cfgW (evs : List Event) : (s.after evs).cfgW = s.cfgW := rfl
@[simp] theorem after_cfgH (evs : List Event) : (s.after evs).cfgH = s.cfgH := rfl
@[simp] theorem after_blPct (evs : List Event) : (s.after evs).blPct = s.blPct := rfl
@[simp] theorem after_rstLvl (evs : List Event) : (s.after evs).rstLvl = lastLevel .rst s.rstLvl evs := rfl
@[simp] theorem after_dcLvl (evs : List Event) : (s.after evs).dcLvl = lastLevel .dc s.dcLvl evs := rfl
@[simp] theorem after_busy (evs : List Event) : (s.after evs).busy = s.busy := rfl
@[simp] theorem after_seq (evs : List Event) : (s.after evs).seq = s.seq := rfl
@[simp] theorem after_buf (evs : List Event) : (s.after evs).buf = s.buf := rfl
@[simp] theorem after_static (evs : List Event) : (s.after evs).static = s.static := rfl
@[simp] theorem after_port (evs : List Event) : (s.after evs).port = s.port := rfl
@[simp] theorem after_pix (evs : List Event) : (s.after evs).pix = s.pix := rfl
@[simp] theorem after_answers (evs : List Event) : (s.after evs).answers = s.answers.drop (actionCount evs) := rfl
@[simp] theorem after_cut (evs : List Event) : (s.after evs).cut = s.cut.map (· - evs.length) := rfl
@[simp] theorem after_answerDraws (evs : List Event) : (s.after evs).answerDraws = s.answerDraws + (actionCount evs - s.answers.length) := rfl
@[simp] theorem after_pixelDraws (evs : List Event) : (s.after evs).pixelDraws = s.pixelDraws := rfl
@[simp] theorem after_trace (evs : List Event) : (s.after evs).trace = s.trace ++ evs := rfl
@[simp] theorem after_responses (evs : List Event) : (s.after evs).responses = s.responses := rfl

/-! `answered` -/

@[simp] theorem answered_lc (e : Status) (evs : List Event) : (s.answered e evs).lc = s.lc := rfl
@[simp] theorem answered_cfgOrient (e : Status) (evs : List Event) : (s.answered e evs).cfgOrient = s.cfgOrient := rfl
@[simp] theorem answered_cfgW (e : Status) (evs : List Event) : (s.answered e evs).cfgW = s.cfgW := rfl
@[simp] theorem answered_cfgH (e : Status) (evs : List Event) : (s.answered e evs).cfgH = s.cfgH := rfl
@[simp] theorem answered_blPct (e : Status) (evs : List Event) : (s.answered e evs).blPct = s.blPct := rfl
@[simp] theorem answered_rstLvl (e : Status) (evs : List Event) : (s.answered e evs).rstLvl = s.rstLvl := rfl
@[simp] theorem answered_dcLvl (e : Status) (evs : List Event) : (s.answered e evs).dcLvl = s.dcLvl := rfl
@[simp] theorem answered_busy (e : Status) (evs : List Event) : (s.answered e evs).busy = false := rfl
@[simp] theorem answered_seq (e : Status) (evs : List Event) : (s.answered e evs).seq = [] := rfl
@[simp] theorem answered_buf (e : Status) (evs : List Event) : (s.answered e evs).buf = [] := rfl
@[simp] theorem answered_static (e : Status) (evs : List Event) : (s.answered e evs).static = s.static := rfl
@[simp] theorem answered_port (e : Status) (evs : List Event) : (s.answered e evs).port = s.port := rfl
@[simp] theorem answered_pix (e : Status) (evs : List Event) : (s.answered e evs).pix = [] := rfl
@[simp] theorem answered_answers (e : Status) (evs : List Event) : (s.answered e evs).answers = [] := rfl
@[simp] theorem answered_cut (e : Status) (evs : List Event) : (s.answered e evs).cut = none := rfl
@[simp] theorem answered_answerDraws (e : Status) (evs : List Event) : (s.answered e evs).answerDraws = s.answerDraws + (actionCount evs - s.answers.length) := rfl
@[simp] theorem answered_pixelDraws (e : Status) (evs : List Event) : (s.answered e evs).pixelDraws = s.pixelDraws := rfl
@[simp] theorem answered_trace (e : Status) (evs : List Event) : (s.answered e evs).trace = s.trace ++ evs := rfl
@[simp] theorem answered_responses (e : Status) (evs : List Event) : (s.answered e evs).responses = s.responses ++ [e] := rfl

/-! `catchError` -/

@[simp] theorem catchError_lc (m : Bool) (e : Status) : (catchError m e s).lc = if m = true ∧ e = .transportError then .failed else s.lc := by
  unfold catchError; split <;> rfl
@[simp] theorem catchError_cfgOrient (m : Bool) (e : Status) : (catchError m e s).cfgOrient = s.cfgOrient := by
  unfold catchError; split <;> rfl
@[simp] theorem catchError_cfgW (m : Bool) (e : Status) : (catchError m e s).cfgW = s.cfgW := by
  unfold catchError; split <;> rfl
@[simp] theorem catchError_cfgH (m : Bool) (e : Status) : (catchError m e s).cfgH = s.cfgH := by
  unfold catchError; split <;> rfl
@[simp] theorem catchError_blPct (m : Bool) (e : Status) : (catchError m e s).blPct = s.blPct := by
  unfold catchError; split <;> rfl
@[simp] theorem catchError_rstLvl (m : Bool) (e : Status) : (catchError m e s).rstLvl = s.rstLvl := by
  unfold catchError; split <;> rfl
@[simp] theorem catchError_dcLvl (m : Bool) (e : Status) : (catchError m e s).dcLvl = s.dcLvl := by
  unfold catchError; split <;> rfl
@[simp] theorem catchError_busy (m : Bool) (e : Status) : (catchError m e s).busy = s.busy := by
  unfold catchError; split <;> rfl
@[simp] theorem catchError_seq (m : Bool) (e : Status) : (catchError m e s).seq = s.seq := by
  unfold catchError; split <;> rfl
@[simp] theorem catchError_buf (m : Bool) (e : Status) : (catchError m e s).buf = s.buf := by
  unfold catchError; split <;> rfl
@[simp] theorem catchError_static (m : Bool) (e : Status) : (catchError m e s).static = s.static := by
  unfold catchError; split <;> rfl
@[simp] theorem catchError_port (m : Bool) (e : Status) : (catchError m e s).port = s.port := by
  unfold catchError; split <;> rfl
@[simp] theorem catchError_pix (m : Bool) (e : Status) : (catchError m e s).pix = s.pix := by
  unfold catchError; split <;> rfl
@[simp] theorem catchError_answers (m : Bool) (e : Status) : (catchError m e s).answers = s.answers := by
  unfold catchError; split <;> rfl
@[simp] theorem catchError_cut (m : Bool) (e : Status) : (catchError m e s).cut = s.cut := by
  unfold catchError; split <;> rfl
@[simp] theorem catchError_answerDraws (m : Bool) (e : Status) : (catchError m e s).answerDraws = s.answerDraws := by
  unfold catchError; split <;> rfl
@[simp] theorem catchError_pixelDraws (m : Bool) (e : Status) : (catchError m e s).pixelDraws = s.pixelDraws := by
  unfold catchError; split <;> rfl
@[simp] theorem catchError_trace (m : Bool) (e : Status) : (catchError m e s).trace = s.trace := by
  unfold catchError; split <;> rfl
@[simp] theorem catchError_responses (m : Bool) (e : Status) : (catchError m e s).responses = s.responses := by
  unfold catchError; split <;> rfl

end Sys2Proof.Machine
end

