-- ==== Sys2Proof/Laws/Perform.lean ====
section
/-! SUPPORT. What one action, one wait and a list of them can do, said once: all of it, a prefix and a failure,
or a prefix and block reset. -/

namespace Sys2Proof.Machine

/-- The event a micro-operation leaves when it goes through. -/
def Micro.event : Micro → Event
  | .act a => .did a
  | .wait ms => .waited ms

/-! ### Events -/

@[simp] theorem actionCount_nil : actionCount [] = 0 := rfl

@[simp] theorem actionCount_append (a b : List Event) : actionCount (a ++ b) = actionCount a + actionCount b :=
  List.countP_append

@[simp] theorem actionCount_did (a : Action) (evs : List Event) :
    actionCount (.did a :: evs) = actionCount evs + 1 := by simp [actionCount, List.countP_cons, Event.isAction]

@[simp] theorem actionCount_failed (a : Action) (evs : List Event) :
    actionCount (.failed a :: evs) = actionCount evs + 1 := by simp [actionCount, List.countP_cons, Event.isAction]

@[simp] theorem actionCount_waited (ms : Nat) (evs : List Event) :
    actionCount (.waited ms :: evs) = actionCount evs := by simp [actionCount, Event.isAction]

theorem actionCount_cons (e : Event) (evs : List Event) :
    actionCount (e :: evs) = actionCount [e] + actionCount evs := actionCount_append [e] evs

theorem lastLevel_append (p : Pin) (l : Level) (a b : List Event) :
    lastLevel p l (a ++ b) = lastLevel p (lastLevel p l a) b := by
  induction a generalizing l with
  | nil => rfl
  | cons e es ih => rcases e with (⟨_, _⟩ | _ | _) | _ | _ <;> simp [lastLevel, ih]

/-! ### `after` and the answers -/

@[simp] theorem after_nil (s : State) : s.after [] = s := by
  cases s; simp [State.after, lastLevel]

theorem after_append (s : State) (a b : List Event) : (s.after a).after b = s.after (a ++ b) := by
  simp only [State.after, actionCount_append, lastLevel_append, List.append_assoc, List.drop_drop,
    List.length_drop, List.length_append, Option.map_map, Function.comp_def, State.mk.injEq, true_and, and_true]
  refine ⟨?_, ?_⟩
  · congr 1; funext k; omega
  · omega

theorem answerAt_zero (s : State) : s.answerAt 0 = s.nextAnswer := by
  unfold State.answerAt State.nextAnswer; cases s.answers <;> simp

theorem answerAt_after (s : State) (evs : List Event) (k : Nat) :
    (s.after evs).answerAt k = s.answerAt (actionCount evs + k) := by
  unfold State.answerAt
  simp only [after_answers, after_answerDraws, List.getElem?_drop, List.length_drop]
  rcases h : s.answers[actionCount evs + k]? with _ | a
  · simp only []
    congr 1
    have := List.getElem?_eq_none_iff.mp h
    omega
  · rfl

theorem dropAnswer_setLevel_emit (s : State) (a : Action) :
    (s.dropAnswer.setLevel a).emit (.did a) = s.after [.did a] := by
  obtain ⟨⟩ := s
  rename_i answers _ _ _ _ _
  cases answers <;> rcases a with ⟨_ | _, _⟩ | _ | _ <;>
    simp [State.dropAnswer, State.setLevel, State.emit, State.after, lastLevel]

theorem dropAnswer_emit_failed (s : State) (a : Action) :
    s.dropAnswer.emit (.failed a) = s.after [.failed a] := by
  obtain ⟨⟩ := s
  rename_i answers _ _ _ _ _
  cases answers <;> simp [State.dropAnswer, State.emit, State.after, lastLevel]

theorem emit_waited (s : State) (ms : Nat) : s.emit (.waited ms) = s.after [.waited ms] := by
  obtain ⟨⟩ := s
  simp [State.emit, State.after, lastLevel]

/-! ### One action or wait -/

/-- What `performOne` can do: block reset strikes; a wait, or an action answered ok, leaves its event; an action
answered fail raises TransportError (R9, R253, R290). -/
theorem performOne_cases (m : Micro) (s : State) :
    (s.cut = some 0 ∧ performOne m s = .struck (blockReset s)) ∨
    (s.cut ≠ some 0 ∧ performOne m s = .done (s.after [m.event]) ∧
      (∀ a, m = .act a → s.nextAnswer = .ok)) ∨
    (∃ a, m = .act a ∧ s.cut ≠ some 0 ∧ s.nextAnswer = .fail ∧
      performOne m s = .raised .transportError (s.after [.failed a])) := by
  by_cases hc : s.cut = some 0
  · left; cases m <;> simp [performOne, act, wait, hc]
  · cases m with
    | wait ms => right; left; simp [performOne, wait, hc, emit_waited, Micro.event]
    | act a =>
      rcases ha : s.nextAnswer with _ | _
      · right; left
        simp [performOne, act, hc, ha, dropAnswer_setLevel_emit, Micro.event]
      · right; right
        exact ⟨a, rfl, hc, rfl, by simp [performOne, act, hc, ha, dropAnswer_emit_failed]⟩

/-! ### A list of them -/

/-- In a calm environment all of the list is performed, in order. -/
theorem perform_calm (ms : List Micro) (s : State) (h : s.calm (ms.map Micro.event)) :
    perform ms s = .done (s.after (ms.map Micro.event)) := by
  induction ms generalizing s with
  | nil => simp [perform]
  | cons m ms ih =>
    obtain ⟨ha, hc⟩ := h
    have hc0 : s.cut ≠ some 0 := fun h0 => by simpa using hc 0 h0
    have hone : performOne m s = .done (s.after [m.event]) := by
      rcases performOne_cases m s with ⟨h0, -⟩ | ⟨-, h1, -⟩ | ⟨a, rfl, -, hf, -⟩
      · exact absurd h0 hc0
      · exact h1
      · have := ha 0 (by simp [Micro.event])
        rw [answerAt_zero, hf] at this; cases this
    rw [perform, hone, Run.bind, ih, after_append]
    · rfl
    · refine ⟨fun k hk => ?_, fun k hk => ?_⟩
      · rw [answerAt_after]
        apply ha
        have := actionCount_cons m.event (ms.map Micro.event)
        rw [List.map_cons]; omega
      · simp only [after_cut, Option.map_eq_some_iff, List.length_singleton] at hk
        obtain ⟨j, hj, rfl⟩ := hk
        have := hc j hj
        simp only [List.map_cons, List.length_cons] at this
        omega

/-- Block reset has not struck before the end of these events, and every action of theirs was answered ok. -/
def State.reached (s : State) (evs : List Event) : Prop :=
  (∀ k, k < actionCount evs → s.answerAt k = .ok) ∧ ∀ k, s.cut = some k → evs.length ≤ k

theorem reached_nil (s : State) : s.reached [] := ⟨fun k hk => absurd hk (Nat.not_lt_zero k), fun k _ => Nat.zero_le k⟩

theorem reached_append {s : State} {a b : List Event} (ha : s.reached a) (hb : (s.after a).reached b) :
    s.reached (a ++ b) := by
  refine ⟨fun k hk => ?_, fun k hk => ?_⟩
  · by_cases h : k < actionCount a
    · exact ha.1 k h
    · rw [actionCount_append] at hk
      have := hb.1 (k - actionCount a) (by omega)
      rwa [answerAt_after, Nat.add_sub_of_le (by omega)] at this
  · have h1 := ha.2 k hk
    have h2 := hb.2 (k - a.length) (by rw [after_cut, hk]; rfl)
    rw [List.length_append]; omega

/-- Everything a list of micro-operations can do (R64, R250): it is all performed, or it stops at the first
failing action, or block reset strikes before one of its events. -/
theorem perform_cases (ms : List Micro) (s : State) :
    (s.reached (ms.map Micro.event) ∧ perform ms s = .done (s.after (ms.map Micro.event))) ∨
    (∃ pre a post, ms = pre ++ .act a :: post ∧ s.reached (pre.map Micro.event) ∧ s.cut ≠ some pre.length ∧
      s.answerAt (actionCount (pre.map Micro.event)) = .fail ∧
      perform ms s = .raised .transportError (s.after (pre.map Micro.event ++ [.failed a]))) ∨
    (∃ pre m post, ms = pre ++ m :: post ∧ s.reached (pre.map Micro.event) ∧ s.cut = some pre.length ∧
      perform ms s = .struck (blockReset (s.after (pre.map Micro.event)))) := by
  induction ms generalizing s with
  | nil => left; exact ⟨reached_nil s, by simp [perform]⟩
  | cons m ms ih =>
    rcases performOne_cases m s with ⟨h0, h1⟩ | ⟨hc, h1, hans⟩ | ⟨a, rfl, hc, hf, h1⟩
    · right; right
      exact ⟨[], m, ms, rfl, reached_nil s, h0, by simp [perform, h1, Run.bind]⟩
    · have hone : s.reached [m.event] := by
        refine ⟨fun k hk => ?_, fun k hk => ?_⟩
        · cases m with
          | wait ms => simp [Micro.event] at hk
          | act a =>
            simp only [Micro.event, actionCount_did, actionCount_nil] at hk
            obtain rfl : k = 0 := by omega
            rw [answerAt_zero]; exact hans a rfl
        · have : k ≠ 0 := fun h0 => hc (h0 ▸ hk)
          rw [List.length_singleton]; omega
      have hcut : ∀ n, (s.after [m.event]).cut = some n ↔ s.cut = some (n + 1) := by
        intro n
        simp only [after_cut, Option.map_eq_some_iff, List.length_singleton]
        constructor
        · rintro ⟨j, hj, hj'⟩
          have : j ≠ 0 := fun h0 => hc (by rw [hj, h0])
          rw [hj]; simp only [Option.some.injEq]; omega
        · exact fun h => ⟨n + 1, h, rfl⟩
      rw [perform, h1, Run.bind]
      rcases ih (s.after [m.event]) with ⟨hr, h⟩ | ⟨pre, a, post, rfl, hr, hcu, hf, h⟩ | ⟨pre, m', post, rfl, hr, hcu, h⟩
      · left; exact ⟨reached_append hone hr, by rw [h, after_append]; rfl⟩
      · right; left
        refine ⟨m :: pre, a, post, rfl, reached_append hone hr, fun h' => hcu ((hcut _).mpr h'), ?_, ?_⟩
        · rw [answerAt_after] at hf
          rw [List.map_cons, actionCount_cons]; exact hf
        · rw [h, after_append]; rfl
      · right; right
        exact ⟨m :: pre, m', post, rfl, reached_append hone hr, (hcut _).mp hcu, by rw [h, after_append]; rfl⟩
    · right; left
      exact ⟨[], a, ms, rfl, reached_nil s, hc, by rw [List.map_nil, actionCount_nil, answerAt_zero]; exact hf,
        by simp [perform, h1, Run.bind]⟩

/-! ### The CommandChannel's events -/

@[simp] theorem sendCmd_events (op : Byte) (ps : List Byte) :
    (sendCmd op ps).map Micro.event = traceCmd op ps := by
  simp only [sendCmd, traceCmd, sendCommand, traceC, List.map_append, List.map_cons, List.map_nil,
    Micro.event, List.map_flatMap]
  rfl

@[simp] theorem sendDataBlock_events (c : Nat) (bs : List Byte) :
    (sendDataBlock c bs).map Micro.event = traceBlock c bs := by
  simp [sendDataBlock, traceBlock, Micro.event, Function.comp_def]

/-- How many actions a controller command is: two, and two for each parameter (R116). -/
theorem actionCount_traceCmd (op : Byte) (ps : List Byte) :
    actionCount (traceCmd op ps) = 2 + 2 * ps.length := by
  induction ps with
  | nil => rfl
  | cons p ps ih => simp only [traceCmd, List.flatMap_cons, actionCount_append, List.length_cons] at *; simp [traceC, traceD] at *; omega

theorem length_traceCmd (op : Byte) (ps : List Byte) : (traceCmd op ps).length = 2 + 2 * ps.length := by
  induction ps with
  | nil => rfl
  | cons p ps ih => simp only [traceCmd, List.flatMap_cons, List.length_append, List.length_cons] at *; simp [traceC, traceD] at *; omega

/-- A controller command never writes RST. -/
@[simp] theorem lastLevel_rst_traceCmd (l : Level) (op : Byte) (ps : List Byte) :
    lastLevel .rst l (traceCmd op ps) = l := by
  rw [traceCmd, lastLevel_append]
  induction ps with
  | nil => simp [traceC, lastLevel]
  | cons p ps ih => rw [List.flatMap_cons, lastLevel_append]; simpa [traceC, traceD, lastLevel] using ih

/-- It leaves DC low without parameters and high with some (R119). -/
@[simp] theorem lastLevel_dc_traceCmd (l : Level) (op : Byte) (ps : List Byte) :
    lastLevel .dc l (traceCmd op ps) = if ps = [] then .low else .high := by
  rw [traceCmd, lastLevel_append]
  have h : ∀ (m : Level) (qs : List Byte), lastLevel .dc m (qs.flatMap traceD) = if qs = [] then m else .high := by
    intro m qs
    induction qs generalizing m with
    | nil => simp [lastLevel]
    | cons q qs ih => rw [List.flatMap_cons, lastLevel_append, ih]; simp [traceD, lastLevel]
  rw [h]; simp [traceC, lastLevel]

end Sys2Proof.Machine
end

