-- ==== Sys2Proof/Laws/Sequence.lean ====
section
/-! SUPPORT. What a request's sequence can do, said once for the whole frame of R170: the items performed, the
first failure, or block reset. -/

namespace Sys2Proof.Machine

/-- What an item performs outside, in a state. -/
def itemMicros (item : SeqOp) (s : State) : List Micro :=
  match item with
  | .cmd op ps => sendCmd op ps
  | .stream => sendDataBlock s.static.chunk s.buf
  | .rst l => [.act (.pin .rst l)]
  | .pwm q => [.act (.pwm q)]
  | .wait ms => [.wait ms]
  | _ => []

/-- What an item writes inside. -/
def itemEffect (item : SeqOp) (s : State) : State :=
  match item with
  | .setLc l => s.withLc l
  | .setCfg o w h => s.withCfg o w h
  | .setBl q => s.withBl q
  | .fill n => s.fillBuf n
  | .encode n => s.encodeBuf n
  | _ => s

/-- The events of an item that goes through. -/
def itemEvents (item : SeqOp) (s : State) : List Event := (itemMicros item s).map Micro.event

/-- The state after an item that goes through. -/
def itemNext (item : SeqOp) (s : State) : State := itemEffect item (s.after (itemEvents item s))

/-- The state after items that all go through, but for the sequencer's own field. -/
def itemsNext : List SeqOp → State → State
  | [], s => s
  | item :: rest, s => itemsNext rest (itemNext item s)

/-- Their events. -/
def itemsEvents : List SeqOp → State → List Event
  | [], _ => []
  | item :: rest, s => itemEvents item s ++ itemsEvents rest (itemNext item s)

theorem runItem_eq (item : SeqOp) (s : State) :
    runItem item s = (perform (itemMicros item s) s).bind fun t => .done (itemEffect item t) := by
  cases item <;> simp only [runItem, itemMicros, itemEffect, perform, Run.bind, performOne]
  case cmd op ps => cases perform (sendCmd op ps) s <;> rfl
  case stream => cases perform (sendDataBlock s.static.chunk s.buf) s <;> rfl
  case rst l => cases act (.pin .rst l) s <;> rfl
  case pwm q => cases act (.pwm q) s <;> rfl
  case wait ms => cases wait ms s <;> rfl

/-! ### The sequencer's field plays no part -/

@[simp] theorem withSeq_withSeq (s : State) (q r : List SeqOp) : (s.withSeq q).withSeq r = s.withSeq r := rfl

@[simp] theorem itemMicros_seq (item : SeqOp) (s : State) (r : List SeqOp) :
    itemMicros item (s.withSeq r) = itemMicros item s := by cases item <;> rfl

@[simp] theorem itemEvents_seq (item : SeqOp) (s : State) (r : List SeqOp) :
    itemEvents item (s.withSeq r) = itemEvents item s := by simp [itemEvents]

@[simp] theorem after_seq_update (s : State) (r : List SeqOp) (evs : List Event) :
    (s.withSeq r).after evs = (s.after evs).withSeq r := rfl

@[simp] theorem itemNext_seq (item : SeqOp) (s : State) (r : List SeqOp) :
    itemNext item (s.withSeq r) = (itemNext item s).withSeq r := by
  unfold itemNext; rw [itemEvents_seq, after_seq_update]; cases item <;> rfl

@[simp] theorem itemsEvents_seq (items : List SeqOp) (s : State) (r : List SeqOp) :
    itemsEvents items (s.withSeq r) = itemsEvents items s := by
  induction items generalizing s with
  | nil => rfl
  | cons item rest ih => simp [itemsEvents, ih]

@[simp] theorem itemsNext_seq (items : List SeqOp) (s : State) (r : List SeqOp) :
    itemsNext items (s.withSeq r) = (itemsNext items s).withSeq r := by
  induction items generalizing s with
  | nil => rfl
  | cons item rest ih => simp [itemsNext, ih]

theorem itemsNext_append (a b : List SeqOp) (s : State) :
    itemsNext (a ++ b) s = itemsNext b (itemsNext a s) := by
  induction a generalizing s with
  | nil => rfl
  | cons item rest ih => simp [itemsNext, ih]

theorem itemsEvents_append (a b : List SeqOp) (s : State) :
    itemsEvents (a ++ b) s = itemsEvents a s ++ itemsEvents b (itemsNext a s) := by
  induction a generalizing s with
  | nil => rfl
  | cons item rest ih => simp [itemsNext, itemsEvents, ih]

/-! ### What items leave alone, and what they do to the interfaces -/

@[simp] theorem itemNext_busy (item : SeqOp) (s : State) : (itemNext item s).busy = s.busy := by
  cases item <;> rfl

@[simp] theorem itemNext_static (item : SeqOp) (s : State) : (itemNext item s).static = s.static := by
  cases item <;> rfl

@[simp] theorem itemNext_port (item : SeqOp) (s : State) : (itemNext item s).port = s.port := by
  cases item <;> rfl

@[simp] theorem itemNext_pix (item : SeqOp) (s : State) : (itemNext item s).pix = s.pix := by
  cases item <;> rfl

@[simp] theorem itemNext_responses (item : SeqOp) (s : State) : (itemNext item s).responses = s.responses := by
  cases item <;> rfl

@[simp] theorem itemNext_trace (item : SeqOp) (s : State) :
    (itemNext item s).trace = s.trace ++ itemEvents item s := by
  cases item <;> rfl

@[simp] theorem itemNext_cut (item : SeqOp) (s : State) :
    (itemNext item s).cut = s.cut.map (· - (itemEvents item s).length) := by
  cases item <;> rfl

@[simp] theorem itemNext_answers (item : SeqOp) (s : State) :
    (itemNext item s).answers = s.answers.drop (actionCount (itemEvents item s)) := by
  cases item <;> rfl

@[simp] theorem itemNext_answerDraws (item : SeqOp) (s : State) :
    (itemNext item s).answerDraws = s.answerDraws + (actionCount (itemEvents item s) - s.answers.length) := by
  cases item <;> rfl

@[simp] theorem itemNext_rstLvl (item : SeqOp) (s : State) :
    (itemNext item s).rstLvl = lastLevel .rst s.rstLvl (itemEvents item s) := by
  cases item <;> rfl

@[simp] theorem itemNext_dcLvl (item : SeqOp) (s : State) :
    (itemNext item s).dcLvl = lastLevel .dc s.dcLvl (itemEvents item s) := by
  cases item <;> rfl

@[simp] theorem itemsNext_busy (items : List SeqOp) (s : State) : (itemsNext items s).busy = s.busy := by
  induction items generalizing s with
  | nil => rfl
  | cons item rest ih => simp [itemsNext, ih]

@[simp] theorem itemsNext_static (items : List SeqOp) (s : State) : (itemsNext items s).static = s.static := by
  induction items generalizing s with
  | nil => rfl
  | cons item rest ih => simp [itemsNext, ih]

@[simp] theorem itemsNext_port (items : List SeqOp) (s : State) : (itemsNext items s).port = s.port := by
  induction items generalizing s with
  | nil => rfl
  | cons item rest ih => simp [itemsNext, ih]

@[simp] theorem itemsNext_pix (items : List SeqOp) (s : State) : (itemsNext items s).pix = s.pix := by
  induction items generalizing s with
  | nil => rfl
  | cons item rest ih => simp [itemsNext, ih]

@[simp] theorem itemsNext_responses (items : List SeqOp) (s : State) : (itemsNext items s).responses = s.responses := by
  induction items generalizing s with
  | nil => rfl
  | cons item rest ih => simp [itemsNext, ih]

@[simp] theorem itemsNext_trace (items : List SeqOp) (s : State) :
    (itemsNext items s).trace = s.trace ++ itemsEvents items s := by
  induction items generalizing s with
  | nil => simp [itemsNext, itemsEvents]
  | cons item rest ih =>
    simp [itemsNext, itemsEvents, ih]

@[simp] theorem itemsNext_cut (items : List SeqOp) (s : State) :
    (itemsNext items s).cut = s.cut.map (· - (itemsEvents items s).length) := by
  induction items generalizing s with
  | nil => simp [itemsNext, itemsEvents]
  | cons item rest ih =>
    simp only [itemsNext, itemsEvents, ih, itemNext_cut, Option.map_map, Function.comp_def, List.length_append]
    congr 1; funext k; omega

@[simp] theorem itemsNext_answers (items : List SeqOp) (s : State) :
    (itemsNext items s).answers = s.answers.drop (actionCount (itemsEvents items s)) := by
  induction items generalizing s with
  | nil => simp [itemsNext, itemsEvents]
  | cons item rest ih =>
    simp [itemsNext, itemsEvents, ih]

@[simp] theorem itemsNext_answerDraws (items : List SeqOp) (s : State) :
    (itemsNext items s).answerDraws = s.answerDraws + (actionCount (itemsEvents items s) - s.answers.length) := by
  induction items generalizing s with
  | nil => simp [itemsNext, itemsEvents]
  | cons item rest ih =>
    simp only [itemsNext, itemsEvents, ih, itemNext_answerDraws, itemNext_answers, List.length_drop, actionCount_append]; omega

@[simp] theorem itemsNext_rstLvl (items : List SeqOp) (s : State) :
    (itemsNext items s).rstLvl = lastLevel .rst s.rstLvl (itemsEvents items s) := by
  induction items generalizing s with
  | nil => rfl
  | cons item rest ih =>
    simp [itemsNext, itemsEvents, ih, lastLevel_append]

@[simp] theorem itemsNext_dcLvl (items : List SeqOp) (s : State) :
    (itemsNext items s).dcLvl = lastLevel .dc s.dcLvl (itemsEvents items s) := by
  induction items generalizing s with
  | nil => rfl
  | cons item rest ih =>
    simp [itemsNext, itemsEvents, ih, lastLevel_append]

/-! ### Running them -/

theorem uncut_left {s : State} {a b : List Event} (h : s.uncut (a ++ b)) : s.uncut a := fun k hk => by
  have := h k hk; simp at this; omega

theorem calm_append {s : State} {a b : List Event} (h : s.calm (a ++ b)) : s.calm a ∧ (s.after a).calm b := by
  obtain ⟨ha, hc⟩ := h
  refine ⟨⟨fun k hk => ha k (by simp; omega), uncut_left hc⟩, fun k hk => ?_, fun k hk => ?_⟩
  · rw [answerAt_after]; exact ha _ (by simp; omega)
  · simp only [after_cut, Option.map_eq_some_iff] at hk
    obtain ⟨j, hj, rfl⟩ := hk
    have := hc j hj
    simp only [List.length_append] at this; omega

/-- Being calm depends on the answers, their counter and the cut alone. -/
theorem calm_congr {s t : State} {evs : List Event} (h : s.calm evs) (ha : t.answers = s.answers)
    (hd : t.answerDraws = s.answerDraws) (hc : t.cut = s.cut) : t.calm evs := by
  refine ⟨fun k hk => ?_, fun k hk => h.2 k (hc ▸ hk)⟩
  rw [← h.1 k hk]; simp only [State.answerAt, ha, hd]

/-- In a calm environment every item goes through. -/
theorem runItems_calm (items : List SeqOp) (s : State) (h : s.calm (itemsEvents items s)) :
    ∃ r, runItems items s = .done ((itemsNext items s).withSeq r) := by
  induction items generalizing s with
  | nil => exact ⟨s.seq, rfl⟩
  | cons item rest ih =>
    obtain ⟨h1, h2⟩ := calm_append h
    have hp : perform (itemMicros item s) (s.withSeq rest) =
        .done ((s.after (itemEvents item s)).withSeq rest) :=
      perform_calm _ _ (calm_congr h1 rfl rfl rfl)
    have hr : runItem item (s.withSeq rest) = .done ((itemNext item s).withSeq rest) := by
      rw [runItem_eq, itemMicros_seq, hp]
      simp only [Run.bind]; cases item <;> rfl
    obtain ⟨r, hr'⟩ := ih ((itemNext item s).withSeq rest)
      (by rw [itemsEvents_seq]; exact calm_congr h2 (by simp) (by simp) (by simp))
    exact ⟨r, by simp [runItems, hr, Run.bind, hr', itemsNext]⟩

/-- Everything a sequence can do (R170, R250, R258, R290): all of it goes through; or the items `before` go
through and the next item's actions up to the first that fails; or block reset strikes after such a prefix. -/
theorem runItems_cases (items : List SeqOp) (s : State) :
    (∃ r, s.reached (itemsEvents items s) ∧ runItems items s = .done ((itemsNext items s).withSeq r)) ∨
    (∃ before item rest pre a post, items = before ++ item :: rest ∧
      itemMicros item (itemsNext before s) = pre ++ .act a :: post ∧
      s.reached (itemsEvents before s ++ pre.map Micro.event) ∧
      s.cut ≠ some (itemsEvents before s ++ pre.map Micro.event).length ∧
      s.answerAt (actionCount (itemsEvents before s ++ pre.map Micro.event)) = .fail ∧
      runItems items s = .raised .transportError
        (((itemsNext before s).after (pre.map Micro.event ++ [.failed a])).withSeq rest)) ∨
    (∃ before item rest pre m post, items = before ++ item :: rest ∧
      itemMicros item (itemsNext before s) = pre ++ m :: post ∧
      s.reached (itemsEvents before s ++ pre.map Micro.event) ∧
      s.cut = some (itemsEvents before s ++ pre.map Micro.event).length ∧
      runItems items s = .struck (blockReset ((itemsNext before s).after (pre.map Micro.event)))) := by
  induction items generalizing s with
  | nil => exact .inl ⟨s.seq, reached_nil s, rfl⟩
  | cons item rest ih =>
    rcases perform_cases (itemMicros item s) (s.withSeq rest) with
      ⟨hr1, h⟩ | ⟨pre, a, post, hm, hr1, hcu, hf, h⟩ | ⟨pre, m, post, hm, hr1, hcut, h⟩
    · have hr : runItem item (s.withSeq rest) = .done ((itemNext item s).withSeq rest) := by
        rw [runItem_eq, itemMicros_seq, h]
        simp only [Run.bind]; cases item <;> rfl
      have hone : s.reached (itemEvents item s) := hr1
      have hnext : ∀ evs, (itemNext item s).withSeq rest |>.reached evs → s.reached (itemEvents item s ++ evs) :=
        fun evs he => reached_append hone ⟨fun k hk => by
            have := he.1 k hk
            simpa [State.answerAt] using this, fun k hk => he.2 k (by simpa using hk)⟩
      have hans : ∀ k, ((itemNext item s).withSeq rest).answerAt k = s.answerAt (actionCount (itemEvents item s) + k) :=
        fun k => by rw [← answerAt_after]; simp [State.answerAt]
      have hcut : ∀ n, ((itemNext item s).withSeq rest).cut = some n ↔ s.cut = some ((itemEvents item s).length + n) := by
        intro n
        simp only [withSeq_cut, itemNext_cut, Option.map_eq_some_iff]
        constructor
        · rintro ⟨j, hj, hj'⟩
          have := hone.2 j hj
          rw [hj]; simp only [Option.some.injEq]; omega
        · exact fun h => ⟨_, h, Nat.add_sub_cancel_left _ _⟩
      rw [runItems, hr, Run.bind]
      rcases ih ((itemNext item s).withSeq rest) with
        ⟨r, hr', h'⟩ | ⟨before, it, rs, pre, a, post, rfl, hm, hr', hcu, hf, h'⟩ |
        ⟨before, it, rs, pre, m, post, rfl, hm, hr', hcu, h'⟩
      · exact .inl ⟨r, by simpa [itemsEvents] using hnext _ hr', by simp [h', itemsNext]⟩
      · refine .inr (.inl ⟨item :: before, it, rs, pre, a, post, rfl, ?_, ?_, ?_, ?_, ?_⟩)
        · simpa [itemsNext] using hm
        · simpa [itemsEvents] using hnext _ hr'
        · intro h0; apply hcu; rw [hcut, h0]; simp [itemsEvents]
        · rw [hans] at hf; simpa [itemsEvents, Nat.add_assoc] using hf
        · simp [h', itemsNext]
      · refine .inr (.inr ⟨item :: before, it, rs, pre, m, post, rfl, ?_, ?_, ?_, ?_⟩)
        · simpa [itemsNext] using hm
        · simpa [itemsEvents] using hnext _ hr'
        · rw [hcut] at hcu; rw [hcu]; simp [itemsEvents]
        · rw [h', itemsNext_seq]; rfl
    · refine .inr (.inl ⟨[], item, rest, pre, a, post, rfl, hm, hr1, by simpa [itemsEvents] using hcu,
        by simpa [itemsEvents, State.answerAt] using hf, ?_⟩)
      rw [runItems, runItem_eq, itemMicros_seq, h]; rfl
    · refine .inr (.inr ⟨[], item, rest, pre, m, post, rfl, hm, hr1, by simpa [itemsEvents] using hcut, ?_⟩)
      rw [runItems, runItem_eq, itemMicros_seq, h]; rfl

/-! ### The end of a request -/

theorem respond_uncut {e : Status} {s : State} (h : s.cut ≠ some 0) :
    respond e s = { s with busy := false, seq := [], buf := [], pix := [], answers := [], cut := none,
                           responses := s.responses ++ [e] } := by
  simp [respond, h]

theorem respond_cut {e : Status} {s : State} (h : s.cut = some 0) : respond e s = blockReset s := by
  simp [respond, h]

/-- After a request, or a controller command that ended its request, the block is idle or goes on. -/
theorem respond_busy (e : Status) (s : State) : (respond e s).busy = false := by
  unfold respond; split <;> rfl

/-- Every host request is its program in the frame of R170; only BRIGHT does not mark FAILED. -/
theorem exec_request (i : Instr) (s : State) (h : isRequest i = true) :
    exec i s = .next (execute (marksOf i) (programOf i) s) := by
  cases i <;> first | exact absurd h Bool.false_ne_true | rfl

/-- Every controller command emits the bytes of its encoding. -/
theorem exec_command (i : Instr) (s : State) (op : Byte) (ps : List Byte) (h : encode i = .wire op ps) :
    exec i s = .next (emitCommand op ps s) := by
  cases i <;> simp only [encode, reduceCtorEq, Encoded.wire.injEq] at h <;> obtain ⟨rfl, rfl⟩ := h <;> rfl

/-- No instruction stops the machine. -/
theorem exec_next (i : Instr) (s : State) : ∃ t, exec i s = .next t := by
  cases i <;> exact ⟨_, rfl⟩

end Sys2Proof.Machine
end

