-- ==== Sys2Proof/Laws/Requests.lean ====
section
/-! SUPPORT. The five requests' programs: the events each performs when all goes through, and everything a
request can do, said once (R170). -/

namespace Sys2Proof.Machine

/-! ### Events of the pieces -/

@[simp] theorem itemEvents_cmd (op : Byte) (ps : List Byte) (s : State) :
    itemEvents (.cmd op ps) s = traceCmd op ps := sendCmd_events op ps

@[simp] theorem itemEvents_stream (s : State) :
    itemEvents .stream s = traceBlock s.static.chunk s.buf := sendDataBlock_events _ _

@[simp] theorem itemEvents_rst (l : Level) (s : State) : itemEvents (.rst l) s = [.did (.pin .rst l)] := rfl
@[simp] theorem itemEvents_pwm (q : BitVec 7) (s : State) : itemEvents (.pwm q) s = [.did (.pwm q)] := rfl
@[simp] theorem itemEvents_wait (ms : Nat) (s : State) : itemEvents (.wait ms) s = [.waited ms] := rfl
@[simp] theorem itemEvents_setLc (l : Lifecycle) (s : State) : itemEvents (.setLc l) s = [] := rfl
@[simp] theorem itemEvents_setCfg (o : Orientation) (w h : Dim) (s : State) :
    itemEvents (.setCfg o w h) s = [] := rfl
@[simp] theorem itemEvents_setBl (q : BitVec 7) (s : State) : itemEvents (.setBl q) s = [] := rfl
@[simp] theorem itemEvents_fill (n : Nat) (s : State) : itemEvents (.fill n) s = [] := rfl
@[simp] theorem itemEvents_encode (n : Nat) (s : State) : itemEvents (.encode n) s = [] := rfl

/-- Items that only emit leave the state they are begun in but for its events. -/
theorem itemNext_cmd (op : Byte) (ps : List Byte) (s : State) :
    itemNext (.cmd op ps) s = s.after (traceCmd op ps) := by rw [itemNext, itemEvents_cmd]; rfl

theorem itemNext_stream (s : State) : itemNext .stream s = s.after (traceBlock s.static.chunk s.buf) := by
  rw [itemNext, itemEvents_stream]; rfl

theorem itemNext_rst (l : Level) (s : State) : itemNext (.rst l) s = s.after [.did (.pin .rst l)] := rfl
theorem itemNext_pwm (q : BitVec 7) (s : State) : itemNext (.pwm q) s = s.after [.did (.pwm q)] := rfl
theorem itemNext_wait (ms : Nat) (s : State) : itemNext (.wait ms) s = s.after [.waited ms] := rfl
theorem itemNext_setLc (l : Lifecycle) (s : State) : itemNext (.setLc l) s = s.withLc l := by
  simp [itemNext, itemEffect]
theorem itemNext_setCfg (o : Orientation) (w h : Dim) (s : State) :
    itemNext (.setCfg o w h) s = s.withCfg o w h := by simp [itemNext, itemEffect]
theorem itemNext_setBl (q : BitVec 7) (s : State) : itemNext (.setBl q) s = s.withBl q := by
  simp [itemNext, itemEffect]
theorem itemNext_fill (n : Nat) (s : State) : itemNext (.fill n) s = s.fillBuf n := by
  simp [itemNext, itemEffect]
theorem itemNext_encode (n : Nat) (s : State) : itemNext (.encode n) s = s.encodeBuf n := by
  simp [itemNext, itemEffect]

/-- A list of commands performs their events one after another and changes nothing else. -/
theorem itemsNext_cmds {α : Type} (f : α → Byte) (g : α → List Byte) (l : List α) (s : State) :
    itemsNext (l.map fun a => .cmd (f a) (g a)) s = s.after (l.flatMap fun a => traceCmd (f a) (g a)) ∧
    itemsEvents (l.map fun a => .cmd (f a) (g a)) s = l.flatMap fun a => traceCmd (f a) (g a) := by
  induction l generalizing s with
  | nil => simp [itemsNext, itemsEvents]
  | cons a l ih =>
    obtain ⟨h1, h2⟩ := ih (s.after (traceCmd (f a) (g a)))
    constructor
    · rw [List.map_cons, itemsNext, itemNext_cmd, h1, after_append, List.flatMap_cons]
    · rw [List.map_cons, itemsEvents, itemNext_cmd, itemEvents_cmd, h2, List.flatMap_cons]

/-- hardReset (R172). -/
theorem itemsNext_hardReset (c : Config) (s : State) :
    itemsNext (hardReset c) s = s.after (traceHardReset c) ∧
    itemsEvents (hardReset c) s = traceHardReset c := by
  constructor
  · simp only [hardReset, itemsNext, itemNext_rst, itemNext_wait, after_append]; rfl
  · simp [hardReset, itemsEvents, traceHardReset]

/-- emitWindow (R134). -/
theorem itemsNext_emitWindow (c : Config) (r : Rect) (o : Orientation) (s : State) :
    itemsNext (emitWindow c r o) s = s.after (traceWindow c r o) ∧
    itemsEvents (emitWindow c r o) s = traceWindow c r o := by
  have h : traceCmd 0x2C [] = traceC 0x2C := rfl
  constructor
  · simp only [emitWindow, itemsNext, itemNext_cmd, after_append, h, traceWindow, List.append_assoc]
  · simp only [emitWindow, itemsEvents, itemEvents_cmd, h, traceWindow, List.append_nil, List.append_assoc]

/-! ### The programs -/

/-- The registers the whole program of a request writes, when all goes through. -/
def programRegs (i : Instr) (s : State) : State :=
  match i with
  | .reset => s.withLc .resetting
  | .init o width height => (s.withCfg o width height).withLc .ready
  | .bright pct => s.withBl (clampPercent (percentOf pct))
  | .clear => s.fillBuf (2 * s.cfgW.toNat * s.cfgH.toNat)
  | .blit cols rows => s.encodeBuf (cols.toNat * rows.toNat)
  | .cmd36 _ | .cmd3A _ | .cmdB2 _ | .cmdB7 _ | .cmdBB _ | .cmdC0 _ | .cmdC2 _ | .cmdC3 _ | .cmdC4 _ => s
  | .cmdC6 _ | .cmdD0 _ | .cmdD6 _ | .cmdE0 _ | .cmdE1 _ | .cmdE4 _ => s
  | .cmd21 | .cmd11 | .cmd29 | .cmd2A _ _ | .cmd2B _ _ | .cmd2C => s

/-- What the whole program of a request leaves when all goes through, but for its response.  `fullTrace` is its
events. -/
def programEnd (i : Instr) (s : State) : State := (programRegs i s).after (fullTrace i s)

theorem fullTrace_init {s : State} {o : Orientation} {w h : Dim} (hz : ¬ (w = 0 ∨ h = 0)) :
    fullTrace (.init o w h) s = traceInit s.static := if_neg hz
theorem fullTrace_init_zero {s : State} {o : Orientation} {w h : Dim} (hz : w = 0 ∨ h = 0) :
    fullTrace (.init o w h) s = [] := if_pos hz
theorem fullTrace_clear {s : State} (hl : s.lc = .ready) : fullTrace .clear s = traceClear s := if_pos hl
theorem fullTrace_clear_not {s : State} (hl : s.lc ≠ .ready) : fullTrace .clear s = [] := if_neg hl
theorem fullTrace_blit {s : State} {c r : Dim} (hl : s.lc = .ready) :
    fullTrace (.blit c r) s = match selectPath s.cfgW s.cfgH c r with
      | none => []
      | some .a => traceBlitA s c r
      | some .b => traceBlitB s c r := if_pos hl
theorem fullTrace_blit_not {s : State} {c r : Dim} (hl : s.lc ≠ .ready) : fullTrace (.blit c r) s = [] := if_neg hl

theorem programOf_init {s : State} {o : Orientation} {w h : Dim} (hz : ¬ (w = 0 ∨ h = 0)) :
    programOf (.init o w h) s =
      .ok (.setLc .resetting :: hardReset s.static ++ [.setCfg o w h, .setLc .initializing] ++
        initOps.map (fun op => .cmd (initOpcode op) (initBytes s.static.initParams op)) ++
        [.wait s.static.tWakeMs, .cmd 0x29 [], .setLc .ready]) := if_neg hz
theorem programOf_init_zero {s : State} {o : Orientation} {w h : Dim} (hz : w = 0 ∨ h = 0) :
    programOf (.init o w h) s = .error .configurationError := if_pos hz
theorem programOf_clear {s : State} (hl : s.lc = .ready) :
    programOf .clear s = .ok (.fill (2 * s.cfgW.toNat * s.cfgH.toNat) ::
      emitWindow s.static (fullRect s.cfgOrient s.cfgW s.cfgH) s.cfgOrient ++ [.stream]) :=
  if_neg fun h => h hl
theorem programOf_clear_not {s : State} (hl : s.lc ≠ .ready) :
    programOf .clear s = .error .prematureOperationError := if_pos hl
theorem programOf_blit {s : State} {c r : Dim} (hl : s.lc = .ready) :
    programOf (.blit c r) s = match selectPath s.cfgW s.cfgH c r with
      | none => .error .invalidBufferShapeError
      | some .a =>
        .ok (.encode (c.toNat * r.toNat) :: .cmd 0x36 [s.static.macLandscape] ::
          emitWindow s.static ⟨0, 0, s.cfgW.toNat, s.cfgH.toNat⟩ .landscape ++ [.stream])
      | some .b =>
        .ok (.encode (c.toNat * r.toNat) :: .cmd 0x36 [s.static.macPortrait] ::
          emitWindow s.static ⟨0, 0, s.cfgH.toNat, s.cfgW.toNat⟩ .portrait ++ [.stream]) :=
  if_neg fun h => h hl
theorem programOf_blit_not {s : State} {c r : Dim} (hl : s.lc ≠ .ready) :
    programOf (.blit c r) s = .error .prematureOperationError := if_pos hl

theorem withLc_after (s : State) (l : Lifecycle) (evs : List Event) :
    (s.after evs).withLc l = (s.withLc l).after evs := rfl
theorem withCfg_after (s : State) (o : Orientation) (w h : Dim) (evs : List Event) :
    (s.after evs).withCfg o w h = (s.withCfg o w h).after evs := rfl
theorem withBl_after (s : State) (q : BitVec 7) (evs : List Event) :
    (s.after evs).withBl q = (s.withBl q).after evs := rfl

/-- R171, R173, R177, R179, R180: a program's events are the request's full trace, and its registers those of
`programEnd`. -/
theorem program_spec (i : Instr) (s : State) (items : List SeqOp) (hr : isRequest i = true)
    (hp : programOf i s = .ok items) :
    itemsEvents items s = fullTrace i s ∧ itemsNext items s = programEnd i s := by
  cases i <;> try exact absurd hr Bool.false_ne_true
  case reset =>
    obtain rfl : _ = items := Except.ok.inj hp
    obtain ⟨h1, h2⟩ := itemsNext_hardReset s.static (s.withLc .resetting)
    simp only [itemsEvents, itemsNext, itemEvents_setLc, itemNext_setLc, h1, h2, List.nil_append]
    exact ⟨rfl, rfl⟩
  case init o w ht =>
    by_cases hz : w = 0 ∨ ht = 0
    · rw [programOf_init_zero hz] at hp; cases hp
    rw [programOf_init hz] at hp
    obtain rfl : _ = items := Except.ok.inj hp
    have hr := itemsNext_hardReset s.static
    have hc := itemsNext_cmds initOpcode (initBytes s.static.initParams) initOps
    have h29 : traceCmd 0x29 [] = traceC 0x29 := rfl
    constructor
    · simp only [List.cons_append, List.append_assoc, itemsEvents, itemEvents_setLc, itemNext_setLc,
        itemsEvents_append, hr, hc, List.nil_append, itemEvents_setCfg, itemEvents_wait, itemEvents_cmd,
        List.append_nil, fullTrace_init hz, traceInit, h29]
    · simp only [List.cons_append, List.append_assoc, itemsNext, itemNext_setLc, itemsNext_append, hr, hc,
        itemNext_setCfg, itemNext_wait, itemNext_cmd, List.nil_append, programEnd, fullTrace_init hz,
        traceInit, withLc_after, withCfg_after, after_append, h29]
      rfl
  case bright p =>
    obtain rfl : _ = items := Except.ok.inj hp
    refine ⟨rfl, ?_⟩
    simp only [itemsNext, itemNext_pwm, itemNext_setBl, withBl_after]
    rfl
  case clear =>
    by_cases hl : s.lc = .ready
    · rw [programOf_clear hl] at hp
      obtain rfl : _ = items := Except.ok.inj hp
      have hw := itemsNext_emitWindow s.static (fullRect s.cfgOrient s.cfgW s.cfgH) s.cfgOrient
      constructor
      · simp only [List.cons_append, itemsEvents, itemEvents_fill, itemNext_fill, List.nil_append,
          itemsEvents_append, hw, itemEvents_stream, List.append_nil, fullTrace_clear hl]
        rfl
      · simp only [List.cons_append, itemsNext, itemNext_fill, itemsNext_append, hw, itemNext_stream,
          after_append, programEnd, fullTrace_clear hl]
        rfl
    · rw [programOf_clear_not hl] at hp; cases hp
  case blit c r =>
    by_cases hl : s.lc = .ready
    · rw [programOf_blit hl] at hp
      rcases hs : selectPath s.cfgW s.cfgH c r with _ | _ | _ <;> rw [hs] at hp
      · cases hp
      all_goals
        obtain rfl : _ = items := Except.ok.inj hp
        have hw := itemsNext_emitWindow s.static
        constructor
        · simp only [List.cons_append, itemsEvents, itemEvents_encode, itemNext_encode, List.nil_append,
            itemEvents_cmd, itemNext_cmd, itemsEvents_append, hw, itemEvents_stream,
            List.append_nil, fullTrace_blit hl, hs, traceBlitA, traceBlitB, List.append_assoc]
          rfl
        · simp only [List.cons_append, itemsNext, itemNext_encode, itemNext_cmd, itemsNext_append,
            hw, itemNext_stream, after_append, programEnd, fullTrace_blit hl, hs, traceBlitA, traceBlitB,
            List.append_assoc]
          rfl
    · rw [programOf_blit_not hl] at hp; cases hp

/-! ### Everything a request can do -/

/-- A check ends the request (R252, R254, R255, R257): which, by the instruction and the state. -/
theorem program_error (i : Instr) (s : State) (e : Status) (hr : isRequest i = true)
    (hp : programOf i s = .error e) :
    (∃ o w h, i = .init o w h ∧ (w = 0 ∨ h = 0) ∧ e = .configurationError) ∨
    ((i = .clear ∨ ∃ c r, i = .blit c r) ∧ s.lc ≠ .ready ∧ e = .prematureOperationError) ∨
    (∃ c r, i = .blit c r ∧ s.lc = .ready ∧ selectPath s.cfgW s.cfgH c r = none ∧
      e = .invalidBufferShapeError) := by
  cases i <;> try exact absurd hr Bool.false_ne_true
  case reset => cases hp
  case init o w ht =>
    by_cases hz : w = 0 ∨ ht = 0
    · rw [programOf_init_zero hz] at hp
      exact .inl ⟨o, w, ht, rfl, hz, (Except.error.inj hp).symm⟩
    · rw [programOf_init hz] at hp; cases hp
  case bright p => cases hp
  case clear =>
    by_cases hl : s.lc = .ready
    · rw [programOf_clear hl] at hp; cases hp
    · rw [programOf_clear_not hl] at hp
      exact .inr (.inl ⟨.inl rfl, hl, (Except.error.inj hp).symm⟩)
  case blit c r =>
    by_cases hl : s.lc = .ready
    · rw [programOf_blit hl] at hp
      rcases hs : selectPath s.cfgW s.cfgH c r with _ | _ | _ <;> rw [hs] at hp
      · exact .inr (.inr ⟨c, r, rfl, hl, hs, (Except.error.inj hp).symm⟩)
      · cases hp
      · cases hp
    · rw [programOf_blit_not hl] at hp
      exact .inr (.inl ⟨.inr ⟨c, r, rfl⟩, hl, (Except.error.inj hp).symm⟩)

/-- Where a check ends the request, its full trace is empty. -/
theorem fullTrace_of_error (i : Instr) (s : State) (e : Status) (hr : isRequest i = true)
    (hp : programOf i s = .error e) : fullTrace i s = [] := by
  rcases program_error i s e hr hp with ⟨o, w, h, rfl, hz, -⟩ | ⟨rfl | ⟨c, r, rfl⟩, hl, -⟩ | ⟨c, r, rfl, hl, hs, -⟩
  · exact fullTrace_init_zero hz
  · exact fullTrace_clear_not hl
  · exact fullTrace_blit_not hl
  · rw [fullTrace_blit hl, hs]

/-- The full trace does not depend on the busy bit. -/
@[simp] theorem fullTrace_withBusy (i : Instr) (s : State) (b : Bool) :
    fullTrace i (s.withBusy b) = fullTrace i s := by cases i <;> rfl

/-- The checks and the program do not depend on the busy bit. -/
@[simp] theorem programOf_withBusy (i : Instr) (s : State) (b : Bool) :
    programOf i (s.withBusy b) = programOf i s := by cases i <;> rfl

/-- Everything a host request can do (R170): a check ends it; or it answers OK after its whole program; or it
answers TransportError at its first failing action; or block reset strikes. -/
theorem exec_request_cases (i : Instr) (s t : State) (hr : isRequest i = true) (h : exec i s = .next t) :
    (∃ e, programOf i s = .error e ∧ t = respond e (s.withBusy true)) ∨
    (∃ items, programOf i s = .ok items ∧
      ((∃ r, s.reached (fullTrace i s) ∧ t = respond .ok ((programEnd i (s.withBusy true)).withSeq r)) ∨
       (∃ before item rest pre a post, items = before ++ item :: rest ∧
          itemMicros item (itemsNext before (s.withBusy true)) = pre ++ .act a :: post ∧
          s.reached (itemsEvents before (s.withBusy true) ++ pre.map Micro.event) ∧
          s.cut ≠ some (itemsEvents before (s.withBusy true) ++ pre.map Micro.event).length ∧
          s.answerAt (actionCount (itemsEvents before (s.withBusy true) ++ pre.map Micro.event)) = .fail ∧
          t = respond .transportError (catchError (marksOf i) .transportError
            (((itemsNext before (s.withBusy true)).after (pre.map Micro.event ++ [.failed a])).withSeq rest))) ∨
       (∃ before item rest pre m post, items = before ++ item :: rest ∧
          itemMicros item (itemsNext before (s.withBusy true)) = pre ++ m :: post ∧
          s.reached (itemsEvents before (s.withBusy true) ++ pre.map Micro.event) ∧
          s.cut = some (itemsEvents before (s.withBusy true) ++ pre.map Micro.event).length ∧
          t = blockReset ((itemsNext before (s.withBusy true)).after (pre.map Micro.event))))) := by
  rw [exec_request i s hr] at h
  obtain rfl : execute (marksOf i) (programOf i) s = t := by simpa using h
  unfold execute
  rcases hp : programOf i (s.withBusy true) with e | items <;> rw [programOf_withBusy] at hp
  · left
    refine ⟨e, hp, ?_⟩
    have he : e ≠ .transportError := by
      rcases program_error i s e hr hp with ⟨_, _, _, -, -, rfl⟩ | ⟨-, -, rfl⟩ | ⟨_, _, -, -, -, rfl⟩ <;> decide
    simp [finish, catchError, he]
  · right
    refine ⟨items, hp, ?_⟩
    have hspec := program_spec i (s.withBusy true) items hr (by rwa [programOf_withBusy])
    rcases runItems_cases items (s.withBusy true) with
      ⟨r, hre, h1⟩ | ⟨b, it, rest, pre, a, post, hi, hm, hre, hcu, hf, h1⟩ |
      ⟨b, it, rest, pre, m, post, hi, hm, hre, hcu, h1⟩
    · refine .inl ⟨r, ?_, by simp only [h1, finish, hspec.2]⟩
      rw [hspec.1, fullTrace_withBusy] at hre; exact hre
    · exact .inr (.inl ⟨b, it, rest, pre, a, post, hi, hm, hre, hcu, hf, by simp only [h1, finish]⟩)
    · exact .inr (.inr ⟨b, it, rest, pre, m, post, hi, hm, hre, hcu, by simp only [h1, finish]⟩)

/-- The prefix of events after which a sequence stopped, inside its full trace. -/
theorem stopped_events (items before rest : List SeqOp) (item : SeqOp) (pre post : List Micro) (m : Micro)
    (s : State) (hi : items = before ++ item :: rest)
    (hm : itemMicros item (itemsNext before s) = pre ++ m :: post) :
    itemsEvents items s = itemsEvents before s ++ pre.map Micro.event ++ m.event ::
      (post.map Micro.event ++ itemsEvents rest (itemNext item (itemsNext before s))) := by
  subst hi
  simp [itemsEvents_append, itemsEvents, itemEvents, hm]

/-! ### Whole requests -/

/-- Not even at the end of no events: block reset does not strike now. -/
theorem uncut_ne {s : State} (h : s.uncut []) : s.cut ≠ some 0 := fun h0 => by simpa using h 0 h0

/-- A request whose checks pass performs its full trace and answers OK when the environment lets it. -/
theorem exec_calm (i : Instr) (s : State) (items : List SeqOp) (hr : isRequest i = true)
    (hp : programOf i s = .ok items) (hc : s.calm (fullTrace i s)) :
    exec i s = .next ((programRegs i s).answered .ok (fullTrace i s) |> fun t =>
      { t with rstLvl := lastLevel .rst s.rstLvl (fullTrace i s), dcLvl := lastLevel .dc s.dcLvl (fullTrace i s) }) := by
  have hs := program_spec i (s.withBusy true) items hr (by rwa [programOf_withBusy])
  rw [fullTrace_withBusy] at hs
  obtain ⟨r, h⟩ := runItems_calm items (s.withBusy true) (by rw [hs.1]; exact calm_congr hc rfl rfl rfl)
  rw [exec_request i s hr]
  simp only [execute, programOf_withBusy, hp, h, finish, hs.2, programEnd]
  rw [fullTrace_withBusy]
  have hcut : ((((programRegs i (s.withBusy true)).after (fullTrace i s))).withSeq r).cut ≠ some 0 := by
    have : (programRegs i (s.withBusy true)).cut = s.cut := by cases i <;> rfl
    simp only [withSeq_cut, after_cut, this]
    intro h0
    obtain ⟨j, hj, hj'⟩ := Option.map_eq_some_iff.mp h0
    have := hc.2 j hj; omega
  rw [respond_uncut hcut]
  cases i <;> try exact absurd hr Bool.false_ne_true
  all_goals rfl

/-- The init sequence never writes RST. -/
theorem lastLevel_inits (l : Level) (t : InitParams) : ∀ ops : List InitOp,
    lastLevel .rst l (ops.flatMap fun op => traceCmd (initOpcode op) (initBytes t op)) = l := by
  intro ops; induction ops with
  | nil => rfl
  | cons o os ih => rw [List.flatMap_cons, lastLevel_append, lastLevel_rst_traceCmd, ih]

/-- The levels INIT leaves (R173). -/
theorem lastLevel_traceInit (s : State) :
    lastLevel .rst s.rstLvl (traceInit s.static) = .high ∧ lastLevel .dc s.dcLvl (traceInit s.static) = .low := by
  unfold traceInit
  simp only [lastLevel_append]
  rw [lastLevel_inits]
  exact ⟨rfl, rfl⟩

/-- A request that a check ends changes nothing and answers that error (R252, R254, R255). -/
theorem exec_error (i : Instr) (s : State) (e : Status) (hr : isRequest i = true)
    (hp : programOf i s = .error e) (hc : s.uncut []) : exec i s = .next (s.answered e []) := by
  have he : e ≠ .transportError := by
    rcases program_error i s e hr hp with ⟨_, _, _, -, -, rfl⟩ | ⟨-, -, rfl⟩ | ⟨_, _, -, -, -, rfl⟩ <;> decide
  rw [exec_request i s hr]
  simp only [execute, programOf_withBusy, hp, finish, catchError, he, and_false, if_false]
  rw [respond_uncut (by simpa using uncut_ne hc)]
  simp [State.answered, State.withBusy, actionCount]

/-- Transactions write no pin. -/
theorem lastLevel_chunks (p : Pin) (l : Level) (L : List (List Byte)) :
    lastLevel p l (L.map fun ch => .did (.spi ch)) = l := by
  induction L with
  | nil => rfl
  | cons a L ih => simpa [lastLevel] using ih

/-- A data block writes DC high and nothing else. -/
theorem lastLevel_block (p : Pin) (l : Level) (c : Nat) (bs : List Byte) :
    lastLevel p l (traceBlock c bs) = lastLevel p l [.did (.pin .dc .high)] := by
  simp [traceBlock, lastLevel, lastLevel_chunks]

/-- A window never writes RST. -/
theorem lastLevel_rst_window (l : Level) (c : Config) (r : Rect) (o : Orientation) :
    lastLevel .rst l (traceWindow c r o) = l := by
  simp only [traceWindow, lastLevel_append, lastLevel_rst_traceCmd]; rfl

/-! ### What a request leaves when block reset does not strike -/

/-- A pin nothing writes keeps its level. -/
theorem lastLevel_of_not_mem (p : Pin) (l : Level) (evs : List Event) (h : ∀ m, .did (.pin p m) ∉ evs) :
    lastLevel p l evs = l := by
  induction evs generalizing l with
  | nil => rfl
  | cons e es ih =>
    have ih' := ih (h := fun m hm => h m (List.mem_cons_of_mem _ hm))
    rcases e with (⟨q, m⟩ | _ | _) | _ | _ <;> simp only [lastLevel, ih']
    rw [if_neg]; rintro rfl; exact h m List.mem_cons_self

/-- Items without a configuration write keep the stored configuration. -/
theorem itemsNext_cfg (items : List SeqOp) (s : State) (h : ∀ o w ht, .setCfg o w ht ∉ items) :
    (itemsNext items s).cfgOrient = s.cfgOrient ∧ (itemsNext items s).cfgW = s.cfgW ∧
      (itemsNext items s).cfgH = s.cfgH := by
  induction items generalizing s with
  | nil => exact ⟨rfl, rfl, rfl⟩
  | cons item rest ih =>
    obtain ⟨h1, h2, h3⟩ := ih (itemNext item s) fun o w ht hm => h o w ht (List.mem_cons_of_mem _ hm)
    rw [itemsNext, h1, h2, h3]
    cases item <;> try exact ⟨rfl, rfl, rfl⟩
    rename_i o w ht; exact absurd List.mem_cons_self (h o w ht)

/-- Items without a duty write keep the duty. -/
theorem itemsNext_blPct (items : List SeqOp) (s : State) (h : ∀ q, .setBl q ∉ items) :
    (itemsNext items s).blPct = s.blPct := by
  induction items generalizing s with
  | nil => rfl
  | cons item rest ih =>
    rw [itemsNext, ih _ fun q hm => h q (List.mem_cons_of_mem _ hm)]
    cases item <;> try rfl
    rename_i q; exact absurd List.mem_cons_self (h q)

/-- Items without a lifecycle write keep the lifecycle. -/
theorem itemsNext_lc (items : List SeqOp) (s : State) (h : ∀ l, .setLc l ∉ items) :
    (itemsNext items s).lc = s.lc := by
  induction items generalizing s with
  | nil => rfl
  | cons item rest ih =>
    rw [itemsNext, ih _ fun q hm => h q (List.mem_cons_of_mem _ hm)]
    cases item <;> try rfl
    rename_i q; exact absurd List.mem_cons_self (h q)

/-- Items that encode nothing read no pixel. -/
theorem itemsNext_pixelDraws (items : List SeqOp) (s : State) (h : ∀ n, .encode n ∉ items) :
    (itemsNext items s).pixelDraws = s.pixelDraws := by
  induction items generalizing s with
  | nil => rfl
  | cons item rest ih =>
    rw [itemsNext, ih _ fun q hm => h q (List.mem_cons_of_mem _ hm)]
    cases item <;> try rfl
    rename_i q; exact absurd List.mem_cons_self (h q)

/-- What a failed request leaves: `before` were performed whole, `evs` are all its events before the failure. -/
structure FailedAt (i : Instr) (s t : State) (before : List SeqOp) (item : SeqOp) (evs : List Event)
    (a : Action) : Prop where
  lc : t.lc = if marksOf i = true then .failed else (itemsNext before (s.withBusy true)).lc
  cfgOrient : t.cfgOrient = (itemsNext before (s.withBusy true)).cfgOrient
  cfgW : t.cfgW = (itemsNext before (s.withBusy true)).cfgW
  cfgH : t.cfgH = (itemsNext before (s.withBusy true)).cfgH
  blPct : t.blPct = (itemsNext before (s.withBusy true)).blPct
  pixelDraws : t.pixelDraws = (itemsNext before (s.withBusy true)).pixelDraws
  rstLvl : t.rstLvl = lastLevel .rst s.rstLvl evs
  dcLvl : t.dcLvl = lastLevel .dc s.dcLvl evs
  busy : t.busy = false
  seq : t.seq = []
  buf : t.buf = []
  static : t.static = s.static
  port : t.port = s.port
  trace : t.trace = s.trace ++ evs ++ [.failed a]
  responses : t.responses = s.responses ++ [.transportError]
  answers : ∀ k, k < actionCount evs → s.answerAt k = .ok
  fails : s.answerAt (actionCount evs) = .fail
  stopped : itemMicros item (itemsNext before (s.withBusy true)) ≠ []
  begun : itemsEvents before (s.withBusy true) <+: evs
  within : evs ++ [.did a] <+: itemsEvents (before ++ [item]) (s.withBusy true)
  isPrefix : evs ++ [.did a] <+: fullTrace i s

/-- What a request can do when block reset does not strike it. -/
theorem exec_uncut_cases (i : Instr) (s t : State) (hr : isRequest i = true) (hc : s.uncut (fullTrace i s))
    (h : exec i s = .next t) :
    (∃ e, programOf i s = .error e ∧ fullTrace i s = [] ∧ t = s.answered e []) ∨
    (∃ items, programOf i s = .ok items ∧ s.reached (fullTrace i s) ∧ t =
      { (programRegs i s).answered .ok (fullTrace i s) with
        rstLvl := lastLevel .rst s.rstLvl (fullTrace i s), dcLvl := lastLevel .dc s.dcLvl (fullTrace i s) }) ∨
    (∃ before item rest evs a, programOf i s = .ok (before ++ item :: rest) ∧
      FailedAt i s t before item evs a) := by
  rcases exec_request_cases i s t hr h with ⟨e, hp, rfl⟩ | ⟨items, hp, hh⟩
  · have hf := fullTrace_of_error i s e hr hp
    refine .inl ⟨e, hp, hf, ?_⟩
    rw [respond_uncut (by simpa using uncut_ne (hf ▸ hc))]
    simp [State.answered, State.withBusy, actionCount]
  · have hcut : ∀ n, n ≤ (fullTrace i s).length → s.cut.map (· - n) ≠ some 0 := by
      intro n hn h0
      obtain ⟨j, hj, hj'⟩ := Option.map_eq_some_iff.mp h0
      have := hc j hj; omega
    right
    rcases hh with ⟨r, hre, rfl⟩ | ⟨before, item, rest, pre, a, post, rfl, hm, hre, -, hfail, rfl⟩ |
      ⟨before, item, rest, pre, m, post, rfl, hm, -, hcu, rfl⟩
    · refine .inl ⟨items, hp, hre, ?_⟩
      rw [respond_uncut]
      · rw [programEnd, fullTrace_withBusy]
        cases i <;> try exact absurd hr Bool.false_ne_true
        all_goals rfl
      · have : (programRegs i (s.withBusy true)).cut = s.cut := by cases i <;> rfl
        simp only [programEnd, withSeq_cut, after_cut, fullTrace_withBusy, this]
        exact hcut _ (le_refl _)
    · have hspec := (program_spec i (s.withBusy true) _ hr (by rwa [programOf_withBusy])).1
      rw [stopped_events _ before rest item pre post _ _ rfl hm, fullTrace_withBusy] at hspec
      have hpre : (itemsEvents before (s.withBusy true) ++ pre.map Micro.event) ++ [.did a] <+: fullTrace i s :=
        ⟨post.map Micro.event ++ itemsEvents rest (itemNext item (itemsNext before (s.withBusy true))), by
          rw [← hspec]; simp [Micro.event]⟩
      have hlen := hpre.length_le
      simp only [List.length_append, List.length_singleton, List.length_map] at hlen
      refine .inr ⟨before, item, rest, itemsEvents before (s.withBusy true) ++ pre.map Micro.event, a, hp, ?_⟩
      rw [respond_uncut]
      · constructor <;> simp [List.append_assoc, lastLevel_append, lastLevel]
        · simpa using hre.1
        · simpa using hfail
        · rw [hm]; simp
        · simp [itemsEvents_append, itemsEvents, itemEvents, hm, Micro.event]
        · rw [← List.append_assoc]; exact hpre
      · simp only [catchError_cut, withSeq_cut, after_cut, itemsNext_cut, withBusy_cut, Option.map_map, Function.comp_def]
        have := hcut ((itemsEvents before (s.withBusy true)).length + (pre.length + 1)) (by omega)
        simpa [Nat.sub_sub] using this
    · exfalso
      have hspec := (program_spec i (s.withBusy true) _ hr (by rwa [programOf_withBusy])).1
      rw [stopped_events _ before rest item pre post _ _ rfl hm, fullTrace_withBusy] at hspec
      have hlen := congrArg List.length hspec
      simp only [List.length_append, List.length_cons, List.length_map] at hlen
      have := hc _ hcu
      simp only [List.length_append, List.length_map] at this; omega

/-- Only BRIGHT writes the duty. -/
theorem program_setBl {i : Instr} {s : State} {items : List SeqOp} (hr : isRequest i = true) (hm : marksOf i = true)
    (hp : programOf i s = .ok items) : ∀ q, .setBl q ∉ items := by
  cases i <;> try exact absurd hr Bool.false_ne_true
  case reset => obtain rfl := Except.ok.inj hp; simp [hardReset]
  case init o w ht =>
    by_cases hz : w = 0 ∨ ht = 0
    · rw [programOf_init_zero hz] at hp; cases hp
    · rw [programOf_init hz] at hp; obtain rfl := Except.ok.inj hp; simp [hardReset]
  case bright => exact absurd hm Bool.false_ne_true
  case clear =>
    by_cases hl : s.lc = .ready
    · rw [programOf_clear hl] at hp; obtain rfl := Except.ok.inj hp; simp [emitWindow]
    · rw [programOf_clear_not hl] at hp; cases hp
  case blit c r =>
    by_cases hl : s.lc = .ready
    · rw [programOf_blit hl] at hp
      rcases hs : selectPath s.cfgW s.cfgH c r with _ | _ | _ <;> rw [hs] at hp
      · cases hp
      all_goals obtain rfl := Except.ok.inj hp; simp [emitWindow]
    · rw [programOf_blit_not hl] at hp; cases hp

/-- A failing or cut BRIGHT stopped at its only action. -/
theorem program_stopped_bright {i : Instr} {s u : State} {before rest : List SeqOp} {item : SeqOp} (hr : isRequest i = true)
    (hm : marksOf i = false) (hp : programOf i s = .ok (before ++ item :: rest))
    (hne : itemMicros item u ≠ []) : before = [] := by
  cases i <;> try exact absurd hr Bool.false_ne_true
  case bright p =>
    have h := Except.ok.inj hp
    rcases before with _ | ⟨x, _ | ⟨y, ys⟩⟩
    · rfl
    · simp only [List.cons_append, List.nil_append, List.cons.injEq] at h
      obtain ⟨-, rfl, -⟩ := h
      exact absurd rfl hne
    · simp at h
  all_goals cases hm

/-- What the request decoder accepts is a host request (R90). -/
theorem decodeRequest_isRequest (w : ReqWord) (i : Instr) (h : decodeRequest w = .ok i) : isRequest i = true := by
  unfold decodeRequest at h
  simp only at h
  repeat' split at h
  all_goals first | (obtain rfl := Except.ok.inj h; rfl) | cases h

/-! ### Controller commands -/

/-- A controller command in a calm environment (R119, R210). -/
theorem exec_command_calm (i : Instr) (s : State) (op : Byte) (ps : List Byte) (h : encode i = .wire op ps)
    (hc : s.calm (traceCmd op ps)) :
    exec i s = .next { s.after (traceCmd op ps) with rstLvl := s.rstLvl, dcLvl := if ps = [] then .low else .high } := by
  rw [exec_command i s op ps h, emitCommand, perform_calm _ _ (by rwa [sendCmd_events]), sendCmd_events, settle]
  have h1 := lastLevel_rst_traceCmd s.rstLvl op ps
  have h2 := lastLevel_dc_traceCmd s.dcLvl op ps
  rw [← h1, ← h2]; rfl

/-- An instruction that is no request is a controller command, and its full trace is that command's. -/
theorem wire_of {i : Instr} (h : isRequest i = false) :
    ∃ op ps, encode i = .wire op ps ∧ ∀ s, fullTrace i s = traceCmd op ps := by
  cases i <;> first | exact ⟨_, _, rfl, fun _ => rfl⟩ | cases h

/-- Everything a controller command can do (R117, R253, R290). -/
theorem exec_command_cases (i : Instr) (s t : State) (op : Byte) (ps : List Byte) (he : encode i = .wire op ps)
    (h : exec i s = .next t) :
    (s.reached (traceCmd op ps) ∧ t = s.after (traceCmd op ps)) ∨
    (∃ evs a, evs ++ [.did a] <+: traceCmd op ps ∧ s.reached evs ∧ s.answerAt (actionCount evs) = .fail ∧
      t = respond .transportError ((s.after (evs ++ [.failed a])).withLc .failed)) ∨
    (∃ evs, evs <+: traceCmd op ps ∧ s.reached evs ∧ s.cut = some evs.length ∧
      evs.length < (traceCmd op ps).length ∧ t = blockReset (s.after evs)) := by
  rw [exec_command i s op ps he, emitCommand] at h
  have ht := sendCmd_events op ps
  rcases perform_cases (sendCmd op ps) s with ⟨hr, h1⟩ | ⟨pre, a, post, hm, hr, -, hf, h1⟩ |
    ⟨pre, m, post, hm, hr, hcu, h1⟩ <;>
    rw [h1] at h <;> obtain rfl := Host.Outcome.next.inj h
  · left; rw [ht] at hr ⊢; exact ⟨hr, rfl⟩
  · right; left
    exact ⟨pre.map Micro.event, a, ⟨post.map Micro.event, by rw [← ht, hm]; simp [Micro.event]⟩, hr, hf, rfl⟩
  · right; right
    refine ⟨pre.map Micro.event, ⟨(m :: post).map Micro.event, by rw [← ht, hm]; simp⟩, hr, by simpa using hcu,
      ?_, rfl⟩
    rw [← ht, hm]; simp

/-! ### What no instruction writes -/

theorem respond_static (e : Status) (s : State) : (respond e s).static = s.static := by unfold respond; split <;> rfl
theorem respond_port (e : Status) (s : State) : (respond e s).port = s.port := by unfold respond; split <;> rfl
/-- No instruction writes the configuration or the port (R32, R31). -/
theorem exec_static (i : Instr) (s t : State) (h : exec i s = .next t) : t.static = s.static ∧ t.port = s.port := by
  by_cases hr : isRequest i = true
  · rcases exec_request_cases i s t hr h with ⟨e, hp, rfl⟩ | ⟨items, hp, hh⟩
    · simp [respond_static, respond_port]
    · rcases hh with ⟨r, hre, rfl⟩ | ⟨before, item, rest, pre, a, post, hi, hm, hre, hne, hfa, rfl⟩ | ⟨before, item, rest, pre, m, post, hi, hm, hre, hc, rfl⟩
      · have h1 : (programRegs i (s.withBusy true)).static = s.static ∧ (programRegs i (s.withBusy true)).port = s.port := by cases i <;> exact ⟨rfl, rfl⟩
        simp [respond_static, respond_port, programEnd, h1]
      · simp [respond_static, respond_port]
      · simp
  · obtain ⟨op, ps, he, hf⟩ := wire_of (Bool.eq_false_iff.mpr hr)
    rcases exec_command_cases i s t op ps he h with ⟨hr, rfl⟩ | ⟨evs, b, hp, hr, hfa, rfl⟩ | ⟨evs, hp, -, hcu, hl, rfl⟩ <;>
      simp [respond_static, respond_port]

end Sys2Proof.Machine
end

