-- ==== Sys2Proof/Laws/Framing.lean ====
section
/-! SUPPORT. Every request's full trace is well framed (R65, R94, R96). -/

namespace Sys2Proof.Machine

/-- A trace that needs no earlier DC write is framed after any. -/
theorem framed_weaken (c : Nat) (dc : Option Level) (evs : List Event) (h : framed c none evs = true) :
    framed c dc evs = true := by
  cases evs with
  | nil => rfl
  | cons e es =>
    rcases e with (⟨_ | _, _⟩ | bs | _) | (⟨_, _⟩ | bs | _) | _ <;> simp only [framed] at h ⊢ <;> try exact h
    all_goals simp [spiFramed] at h

/-- Framed traces one after the other are framed. -/
theorem framed_append (c : Nat) (dc : Option Level) (a b : List Event) (ha : framed c dc a = true)
    (hb : framed c none b = true) : framed c dc (a ++ b) = true := by
  induction a generalizing dc with
  | nil => exact framed_weaken c dc b hb
  | cons e es ih =>
    rcases e with (⟨_ | _, _⟩ | bs | _) | (⟨_, _⟩ | bs | _) | _ <;>
      simp only [framed, List.cons_append, Bool.and_eq_true] at ha ⊢ <;>
      first | exact ih _ ha | exact ⟨ha.1, ih _ ha.2⟩

/-- A prefix of a framed trace is framed. -/
theorem framed_prefix (c : Nat) (dc : Option Level) (a b : List Event) (h : framed c dc (a ++ b) = true) :
    framed c dc a = true := by
  induction a generalizing dc with
  | nil => rfl
  | cons e es ih =>
    rcases e with (⟨_ | _, _⟩ | bs | _) | (⟨_, _⟩ | bs | _) | _ <;>
      simp only [framed, List.cons_append, Bool.and_eq_true] at h ⊢ <;>
      first | exact ih _ h | exact ⟨h.1, ih _ h.2⟩

/-- So is one whose last action fails. -/
theorem framed_fail (c : Nat) (dc : Option Level) (a : List Event) (x : Action) (h : framed c dc (a ++ [.did x]) = true) :
    framed c dc (a ++ [.failed x]) = true := by
  induction a generalizing dc with
  | nil => rcases x with ⟨_ | _, _⟩ | bs | _ <;> simp_all [framed]
  | cons e es ih =>
    rcases e with (⟨_ | _, _⟩ | bs | _) | (⟨_, _⟩ | bs | _) | _ <;>
      simp only [framed, List.cons_append, Bool.and_eq_true] at h ⊢ <;>
      first | exact ih _ h | exact ⟨h.1, ih _ h.2⟩

/-- Parameters: each byte after its own DC write (R112). -/
theorem framed_data (c : Nat) (hc : 1 ≤ c) (dc : Option Level) (ps : List Byte) : framed c dc (ps.flatMap traceD) = true := by
  induction ps generalizing dc with
  | nil => rfl
  | cons p ps ih => simp [List.flatMap_cons, traceD, framed, spiFramed, hc, ih]

/-- A controller command (R119). -/
theorem framed_cmd (c : Nat) (hc : 1 ≤ c) (op : Byte) (ps : List Byte) (h : wireOpcodes.contains op = true) :
    framed c none (traceCmd op ps) = true := by
  have := framed_data c hc none ps
  simp only [traceCmd, traceC, List.cons_append, List.nil_append, framed, spiFramed, h, Bool.true_and]
  simpa using this

/-- The chunks of a data block, after its one DC write (R113). -/
theorem framed_chunkEvents (c : Nat) (L : List (List Byte)) (h : ∀ ch ∈ L, 1 ≤ ch.length ∧ ch.length ≤ c) :
    framed c (some .high) (L.map fun ch => .did (.spi ch)) = true := by
  induction L with
  | nil => rfl
  | cons a L ih =>
    have ha := h a List.mem_cons_self
    have ih := ih fun ch hch => h ch (List.mem_cons_of_mem _ hch)
    cases a with
    | nil => simp at ha
    | cons b bs => 
      simp only [List.map_cons, framed, spiFramed, Bool.and_eq_true, decide_eq_true_eq]
      exact ⟨ha.2, ih⟩

/-- The chunks' starts lie inside the block. -/
theorem ceilDiv_lt {n c k : Nat} (hc : 0 < c) (h : k < ceilDiv n c) : k * c < n := by
  unfold ceilDiv at h
  rw [Nat.lt_div_iff_mul_lt hc] at h
  have : k * c ≤ n + (c - 1) - (c-1) - 1 + 1 := by omega
  omega

/-- Every chunk has 1 to `CHUNK` bytes (R59). -/
theorem chunks_len (c : Nat) (hc : 0 < c) (bs : List Byte) : ∀ ch ∈ chunks c bs, 1 ≤ ch.length ∧ ch.length ≤ c := by
  intro ch hch
  simp only [chunks, List.mem_map, List.mem_range] at hch
  obtain ⟨k, hk, rfl⟩ := hch
  have := ceilDiv_lt hc hk
  simp only [chunkAt, List.length_take, List.length_drop]; omega

/-- A data block (R113). -/
theorem framed_block (c : Nat) (hc : 1 ≤ c) (bs : List Byte) : framed c none (traceBlock c bs) = true := by
  rw [traceBlock, framed]; exact framed_chunkEvents c _ (chunks_len c hc bs)

/-- A window (R134). -/
theorem framed_window (c : Config) (hc : 1 ≤ c.chunk) (r : Rect) (o : Orientation) : framed c.chunk none (traceWindow c r o) = true := by
  unfold traceWindow
  exact framed_append _ _ _ _ (framed_append _ _ _ _ (framed_cmd _ hc _ _ rfl) (framed_cmd _ hc _ _ rfl)) (framed_cmd _ hc 0x2C [] rfl)

/-- The init sequence (R174). -/
theorem framed_inits (c : Nat) (hc : 1 ≤ c) (t : InitParams) : ∀ ops : List InitOp,
    framed c none (ops.flatMap fun op => traceCmd (initOpcode op) (initBytes t op)) = true := by
  intro ops; induction ops with
  | nil => rfl
  | cons o os ih =>
    rw [List.flatMap_cons]
    exact framed_append _ _ _ _ (framed_cmd _ hc _ _ (by cases o <;> rfl)) ih

/-- The full trace of every host request is framed (R65, R94, R96). -/
theorem framed_full (i : Instr) (s : State) (hr : isRequest i = true) (hc : 1 ≤ s.static.chunk) :
    framed s.static.chunk none (fullTrace i s) = true := by
  cases i <;> try exact absurd hr Bool.false_ne_true
  case reset => rfl
  case init o w ht =>
    by_cases hz : w = 0 ∨ ht = 0
    · rw [fullTrace_init_zero hz]; rfl
    rw [fullTrace_init hz, traceInit]
    refine framed_append _ _ _ _ (framed_append _ _ _ _ (framed_append _ _ _ _ rfl (framed_inits _ hc _ _)) rfl)
      (framed_cmd _ hc 0x29 [] rfl)
  case bright p => rfl
  case clear =>
    by_cases hl : s.lc = .ready
    · rw [fullTrace_clear hl]; exact framed_append _ _ _ _ (framed_window _ hc _ _) (framed_block _ hc _)
    · rw [fullTrace_clear_not hl]; rfl
  case blit c r =>
    by_cases hl : s.lc = .ready
    · rw [fullTrace_blit hl]
      rcases hs : selectPath s.cfgW s.cfgH c r with _ | _ | _
      · rfl
      all_goals exact framed_append _ _ _ _ (framed_append _ _ _ _ (framed_cmd _ hc _ _ rfl) (framed_window _ hc _ _)) (framed_block _ hc _)
    · rw [fullTrace_blit_not hl]; rfl

end Sys2Proof.Machine
end

