-- ==== Sys2Proof/Laws/PerInstr.lean ====
section
/-! SUPPORT. Statements about every instruction as syntax: its encoding against its row of
spec/opcode_table.json. -/

namespace Sys2Proof.Laws.TableMatch

/-- The columns of a row of spec/opcode_table.json: how many bits it gives, and its match and mask. -/
structure Row where
  nbits : Nat
  value : Nat
  mask : Nat
  deriving DecidableEq, Repr

/-- Each instruction's row. -/
def row : Instr → Row
  | .reset => ⟨32, 0x10000000, 0xFFFFFFFF⟩
  | .init _ _ _ => ⟨32, 0x20000000, 0xFE000000⟩
  | .bright _ => ⟨32, 0x30000000, 0xFFFF0000⟩
  | .clear => ⟨32, 0x40000000, 0xFFFFFFFF⟩
  | .blit _ _ => ⟨32, 0x50000000, 0xFF000000⟩
  | .cmd36 _ => ⟨8, 0x36, 0xFF⟩
  | .cmd3A _ => ⟨8, 0x3A, 0xFF⟩
  | .cmdB2 _ => ⟨8, 0xB2, 0xFF⟩
  | .cmdB7 _ => ⟨8, 0xB7, 0xFF⟩
  | .cmdBB _ => ⟨8, 0xBB, 0xFF⟩
  | .cmdC0 _ => ⟨8, 0xC0, 0xFF⟩
  | .cmdC2 _ => ⟨8, 0xC2, 0xFF⟩
  | .cmdC3 _ => ⟨8, 0xC3, 0xFF⟩
  | .cmdC4 _ => ⟨8, 0xC4, 0xFF⟩
  | .cmdC6 _ => ⟨8, 0xC6, 0xFF⟩
  | .cmdD0 _ => ⟨8, 0xD0, 0xFF⟩
  | .cmdD6 _ => ⟨8, 0xD6, 0xFF⟩
  | .cmdE0 _ => ⟨8, 0xE0, 0xFF⟩
  | .cmdE1 _ => ⟨8, 0xE1, 0xFF⟩
  | .cmdE4 _ => ⟨8, 0xE4, 0xFF⟩
  | .cmd21 => ⟨8, 0x21, 0xFF⟩
  | .cmd11 => ⟨8, 0x11, 0xFF⟩
  | .cmd29 => ⟨8, 0x29, 0xFF⟩
  | .cmd2A _ _ => ⟨8, 0x2A, 0xFF⟩
  | .cmd2B _ _ => ⟨8, 0x2B, 0xFF⟩
  | .cmd2C => ⟨8, 0x2C, 0xFF⟩

/-- Whether the first word of an encoding has a row's width and its fixed bits. -/
def fits (r : Row) : Encoded → Prop
  | .request w => r.nbits = 32 ∧ w &&& BitVec.ofNat 32 r.mask = BitVec.ofNat 32 r.value
  | .wire op _ => r.nbits = 8 ∧ op &&& BitVec.ofNat 8 r.mask = BitVec.ofNat 8 r.value

/-- Whatever its operands, an instruction's encoding has its row's fixed bits. -/
def Statement (i : Instr) : Prop := fits (row i) (encode i)

theorem reset : Statement .reset := ⟨rfl, by decide⟩

theorem init (o : Orientation) (width height : Dim) : Statement (.init o width height) := by
  refine ⟨rfl, BitVec.eq_of_getElem_eq fun i hi => ?_⟩
  simp only [BitVec.getElem_and, BitVec.getElem_append]
  interval_cases i <;> simp [row]

theorem bright (pct : Half) : Statement (.bright pct) := by
  refine ⟨rfl, BitVec.eq_of_getElem_eq fun i hi => ?_⟩
  simp only [BitVec.getElem_and, BitVec.getElem_append]
  interval_cases i <;> simp [row]

theorem clear : Statement .clear := ⟨rfl, by decide⟩

theorem blit (cols rows : Dim) : Statement (.blit cols rows) := by
  refine ⟨rfl, BitVec.eq_of_getElem_eq fun i hi => ?_⟩
  simp only [BitVec.getElem_and, BitVec.getElem_append]
  interval_cases i <;> simp [row]

theorem cmd36 (ps : List Byte) : Statement (.cmd36 ps) :=
  ⟨rfl, by simp only [row]; decide⟩
theorem cmd3A (ps : List Byte) : Statement (.cmd3A ps) :=
  ⟨rfl, by simp only [row]; decide⟩
theorem cmdB2 (ps : List Byte) : Statement (.cmdB2 ps) :=
  ⟨rfl, by simp only [row]; decide⟩
theorem cmdB7 (ps : List Byte) : Statement (.cmdB7 ps) :=
  ⟨rfl, by simp only [row]; decide⟩
theorem cmdBB (ps : List Byte) : Statement (.cmdBB ps) :=
  ⟨rfl, by simp only [row]; decide⟩
theorem cmdC0 (ps : List Byte) : Statement (.cmdC0 ps) :=
  ⟨rfl, by simp only [row]; decide⟩
theorem cmdC2 (ps : List Byte) : Statement (.cmdC2 ps) :=
  ⟨rfl, by simp only [row]; decide⟩
theorem cmdC3 (ps : List Byte) : Statement (.cmdC3 ps) :=
  ⟨rfl, by simp only [row]; decide⟩
theorem cmdC4 (ps : List Byte) : Statement (.cmdC4 ps) :=
  ⟨rfl, by simp only [row]; decide⟩
theorem cmdC6 (ps : List Byte) : Statement (.cmdC6 ps) :=
  ⟨rfl, by simp only [row]; decide⟩
theorem cmdD0 (ps : List Byte) : Statement (.cmdD0 ps) :=
  ⟨rfl, by simp only [row]; decide⟩
theorem cmdD6 (ps : List Byte) : Statement (.cmdD6 ps) :=
  ⟨rfl, by simp only [row]; decide⟩
theorem cmdE0 (ps : List Byte) : Statement (.cmdE0 ps) :=
  ⟨rfl, by simp only [row]; decide⟩
theorem cmdE1 (ps : List Byte) : Statement (.cmdE1 ps) :=
  ⟨rfl, by simp only [row]; decide⟩
theorem cmdE4 (ps : List Byte) : Statement (.cmdE4 ps) :=
  ⟨rfl, by simp only [row]; decide⟩
theorem cmd21 : Statement .cmd21 :=
  ⟨rfl, by simp only [row]; decide⟩
theorem cmd11 : Statement .cmd11 :=
  ⟨rfl, by simp only [row]; decide⟩
theorem cmd29 : Statement .cmd29 :=
  ⟨rfl, by simp only [row]; decide⟩
theorem cmd2A (c0 c1 : Half) : Statement (.cmd2A c0 c1) :=
  ⟨rfl, by simp only [row]; decide⟩
theorem cmd2B (r0 r1 : Half) : Statement (.cmd2B r0 r1) :=
  ⟨rfl, by simp only [row]; decide⟩
theorem cmd2C : Statement .cmd2C :=
  ⟨rfl, by simp only [row]; decide⟩

end Sys2Proof.Laws.TableMatch
end

