-- ==== Sys2Proof/Tests/Slice0.lean ====
section
/-! SUPPORT. The model's own tests.  Expected results are the spec's own vectors (95_test_vectors.md) and words
written out from its encodings; the witnesses show a state and operands that meet each obligation's hypotheses. -/

namespace Sys2Proof.Tests

open Sys2Proof Sys2Proof.Machine

/-! ### Small states -/

/-- The test instance IP_MIN of 95_test_vectors.md. -/
def ipMin : InitParams where
  p36 := ⟨0, []⟩
  p3A := ⟨0, []⟩
  pB2 := ⟨0, []⟩
  pB7 := ⟨0, []⟩
  pBB := ⟨0, []⟩
  pC0 := ⟨0, []⟩
  pC2 := ⟨0, []⟩
  pC3 := ⟨0, []⟩
  pC4 := ⟨0, []⟩
  pC6 := ⟨0, []⟩
  pD0 := ⟨0, []⟩
  pD6 := ⟨0, []⟩
  pE0 := Vector.replicate 14 0
  pE1 := Vector.replicate 14 0
  pE4 := ⟨0, []⟩

/-- The source values with IP_MIN and three pin numbers. -/
def cfgMin : Config :=
  { Config.source with pinRst := 0, pinDc := 1, pinBl := 2, initParams := ipMin }

/-- The same with a different byte in each of the fifteen tables, numbered in the order of R174. -/
def cfgTables : Config :=
  { cfgMin with initParams :=
      { p36 := ⟨1, []⟩, p3A := ⟨2, []⟩, pB2 := ⟨3, []⟩, pB7 := ⟨4, []⟩, pBB := ⟨5, []⟩, pC0 := ⟨6, []⟩
        pC2 := ⟨7, []⟩, pC3 := ⟨8, []⟩, pC4 := ⟨9, []⟩, pC6 := ⟨10, []⟩, pD0 := ⟨11, []⟩, pD6 := ⟨12, []⟩
        pE0 := Vector.replicate 14 13, pE1 := Vector.replicate 14 14, pE4 := ⟨15, []⟩ } }

/-- Right after block reset, with that configuration and `n` answers `ok`. -/
def fresh (n : Nat) : State := { State.reset with static := cfgMin, answers := List.replicate n .ok }

/-- A READY block. -/
def ready (n : Nat) (o : Orientation) (w h : Dim) : State :=
  { fresh n with lc := .ready, cfgOrient := o, cfgW := w, cfgH := h, rstLvl := .high }

/-- A running request, about to perform a controller command. -/
def running (n : Nat) : State := { fresh n with busy := true, lc := .initializing }

/-- A word presented to an idle block, with `n` answers `ok`. -/
def presented (s : State) (w : ReqWord) (pix : List PixCell) (n : Nat) : State :=
  { s with port := [.request ⟨w, pix, List.replicate n .ok, none⟩] }

/-- The state an outcome reaches. -/
def reached : Host.Outcome State Fault Refusal → Option State
  | .next s => some s
  | .fault _ => none
  | .refused _ => none

/-- What it leaves: trace and responses. -/
def seen (o : Host.Outcome State Fault Refusal) : Option (List Event × List Status) :=
  (reached o).map fun s => (s.trace, s.responses)

/-- What it leaves: lifecycle, configuration, duty and levels. -/
def regs (o : Host.Outcome State Fault Refusal) :
    Option (Lifecycle × (Orientation × Nat × Nat) × Nat × Level × Level) :=
  (reached o).map fun s =>
    (s.lc, (s.cfgOrient, s.cfgW.toNat, s.cfgH.toNat), s.blPct.toNat, s.rstLvl, s.dcLvl)

/-- The vectors' notation: DC low, then the opcode; then each parameter after DC high. -/
def cmd (op : Byte) (ps : List Byte) : List Event :=
  [.did (.pin .dc .low), .did (.spi [op])] ++ ps.flatMap fun p => [.did (.pin .dc .high), .did (.spi [p])]

/-! ### WellFormed refuses what each check names (R7, R96, R175) -/

theorem smoke_cfg_good : cfgMin.wf = true := by decide
theorem smoke_chunk_small : ({ cfgMin with chunk := 0 } : Config).wf = false := by decide
theorem smoke_chunk_odd : ({ cfgMin with chunk := 3 } : Config).wf = false := by decide
theorem smoke_offset_large : ({ cfgMin with offset := 61442 } : Config).wf = false := by decide
theorem smoke_offset_largest : ({ cfgMin with offset := 61441 } : Config).wf = true := by decide
theorem smoke_dim_bits_small : ({ cfgMin with dimBits := 11 } : Config).wf = false := by decide
theorem smoke_dim_bits_large : ({ cfgMin with dimBits := 13 } : Config).wf = false := by decide
theorem smoke_spi_hz : ({ cfgMin with spiMaxHz := 0 } : Config).wf = false := by decide
theorem smoke_pwm_hz : ({ cfgMin with pwmHz := 0 } : Config).wf = false := by decide
theorem smoke_pins_rst_dc : ({ cfgMin with pinDc := 0 } : Config).wf = false := by decide
theorem smoke_pins_rst_bl : ({ cfgMin with pinBl := 0 } : Config).wf = false := by decide
theorem smoke_pins_dc_bl : ({ cfgMin with pinBl := 1 } : Config).wf = false := by decide

theorem smoke_cmd36 : (Instr.cmd36 []).wf = false := by decide
theorem smoke_cmd3A : (Instr.cmd3A []).wf = false := by decide
theorem smoke_cmdB2 : (Instr.cmdB2 []).wf = false := by decide
theorem smoke_cmdB7 : (Instr.cmdB7 []).wf = false := by decide
theorem smoke_cmdBB : (Instr.cmdBB []).wf = false := by decide
theorem smoke_cmdC0 : (Instr.cmdC0 []).wf = false := by decide
theorem smoke_cmdC2 : (Instr.cmdC2 []).wf = false := by decide
theorem smoke_cmdC3 : (Instr.cmdC3 []).wf = false := by decide
theorem smoke_cmdC4 : (Instr.cmdC4 []).wf = false := by decide
theorem smoke_cmdC6 : (Instr.cmdC6 []).wf = false := by decide
theorem smoke_cmdD0 : (Instr.cmdD0 []).wf = false := by decide
theorem smoke_cmdD6 : (Instr.cmdD6 []).wf = false := by decide
theorem smoke_cmdE0_short : (Instr.cmdE0 (List.replicate 13 0)).wf = false := by decide
theorem smoke_cmdE0_long : (Instr.cmdE0 (List.replicate 15 0)).wf = false := by decide
theorem smoke_cmdE1_short : (Instr.cmdE1 (List.replicate 13 0)).wf = false := by decide
theorem smoke_cmdE1_long : (Instr.cmdE1 (List.replicate 15 0)).wf = false := by decide
theorem smoke_cmdE4 : (Instr.cmdE4 []).wf = false := by decide

/-! ### Decoding: words written out bit by bit (R83 to R87, R96; vectors 2.4) -/

theorem test_decode_reset : decodeRequest 0b00010000000000000000000000000000 = .ok .reset := by decide
theorem test_decode_init :
    decodeRequest 0b00100001000100011000000011110000 = .ok (.init .portrait 280 240) := by decide
theorem test_decode_bright :
    decodeRequest 0b00110000000000001111111111110110 = .ok (.bright 0xFFF6) := by decide
theorem test_decode_clear : decodeRequest 0b01000000000000000000000000000000 = .ok .clear := by decide
theorem test_decode_blit :
    decodeRequest 0b01010000000011110000000100011000 = .ok (.blit 240 280) := by decide
theorem test_decode_illegal :
    [0x00000000, 0x10000001, 0x18000000, 0x221180F0, 0x28000000, 0x30010000, 0x40000100, 0x51000000,
      0x60000000, 0x7FFFFFFF, 0x80000000, (0xFFFFFFFF : ReqWord)].all
      (fun w => (decodeRequest w).toOption.isNone) = true := by decide
theorem test_percent :
    [0xFFF6, 0x8000, 0x7FFF, (0 : Half)].map percentOf = [-10, -32768, 32767, 0] := by decide
theorem test_decode_cmd36 : decodeWire 0b00110110 [0x70] = .ok (.cmd36 [0x70]) := by decide
theorem test_decode_cmd3A : decodeWire 0b00111010 [0x70] = .ok (.cmd3A [0x70]) := by decide
theorem test_decode_cmdB2 : decodeWire 0b10110010 [0x70] = .ok (.cmdB2 [0x70]) := by decide
theorem test_decode_cmdB7 : decodeWire 0b10110111 [0x70] = .ok (.cmdB7 [0x70]) := by decide
theorem test_decode_cmdBB : decodeWire 0b10111011 [0x70] = .ok (.cmdBB [0x70]) := by decide
theorem test_decode_cmdC0 : decodeWire 0b11000000 [0x70] = .ok (.cmdC0 [0x70]) := by decide
theorem test_decode_cmdC2 : decodeWire 0b11000010 [0x70] = .ok (.cmdC2 [0x70]) := by decide
theorem test_decode_cmdC3 : decodeWire 0b11000011 [0x70] = .ok (.cmdC3 [0x70]) := by decide
theorem test_decode_cmdC4 : decodeWire 0b11000100 [0x70] = .ok (.cmdC4 [0x70]) := by decide
theorem test_decode_cmdC6 : decodeWire 0b11000110 [0x70] = .ok (.cmdC6 [0x70]) := by decide
theorem test_decode_cmdD0 : decodeWire 0b11010000 [0x70] = .ok (.cmdD0 [0x70]) := by decide
theorem test_decode_cmdD6 : decodeWire 0b11010110 [0x70] = .ok (.cmdD6 [0x70]) := by decide
theorem test_decode_cmdE0 :
    decodeWire 0b11100000 (List.replicate 14 7) = .ok (.cmdE0 (List.replicate 14 7)) := by decide
theorem test_decode_cmdE1 :
    decodeWire 0b11100001 (List.replicate 14 7) = .ok (.cmdE1 (List.replicate 14 7)) := by decide
theorem test_decode_cmdE4 : decodeWire 0b11100100 [0x70] = .ok (.cmdE4 [0x70]) := by decide
theorem test_decode_cmd21 : decodeWire 0b00100001 [] = .ok .cmd21 := by decide
theorem test_decode_cmd11 : decodeWire 0b00010001 [] = .ok .cmd11 := by decide
theorem test_decode_cmd29 : decodeWire 0b00101001 [] = .ok .cmd29 := by decide
theorem test_decode_cmd2C : decodeWire 0b00101100 [] = .ok .cmd2C := by decide
theorem test_decode_cmd2A : decodeWire 0b00101010 [0x00, 0x14, 0x01, 0x2B] = .ok (.cmd2A 20 299) := by decide
theorem test_decode_cmd2B : decodeWire 0b00101011 [0x00, 0x00, 0x00, 0xEF] = .ok (.cmd2B 0 239) := by decide
theorem test_decode_not_a_command : decodeWire 0b00101101 [] = .error .notAControllerOpcode := by decide
theorem test_decode_wrong_count :
    decodeWire 0x29 [0] = .error .wrongParameterCount ∧ decodeWire 0x2A [0, 1, 2] = .error .wrongParameterCount ∧
    decodeWire 0x36 [] = .error .wrongParameterCount := by decide

/-! ### Values (vectors 1.1, 1.2, 1.3, 2.1, 2.2, 2.3) -/

theorem test_codec :
    [0xFF0000, 0x00FF00, 0x0000FF, 0xFFFFFF, 0x123456, 0x808080, 0xF8FCF8, (0xF7FBF7 : Pixel)].map enc565 =
      [[0xF8, 0x00], [0x07, 0xE0], [0x00, 0x1F], [0xFF, 0xFF], [0x11, 0xAA], [0x84, 0x10], [0xFF, 0xFF],
       [0xF7, 0xDE]] := by decide
theorem test_frame : encodeFrame [0xFF0000, 0x00FF00] = [0xF8, 0x00, 0x07, 0xE0] := by decide
theorem test_window_landscape : resolveWindow 20 ⟨0, 0, 280, 240⟩ .landscape = ⟨20, 299, 0, 239⟩ := by decide
theorem test_window_portrait : resolveWindow 20 ⟨5, 5, 6, 6⟩ .portrait = ⟨5, 5, 25, 25⟩ := by decide
theorem test_window_largest : resolveWindow 20 ⟨0, 0, 4095, 4095⟩ .landscape = ⟨20, 4114, 0, 4094⟩ := by decide
theorem test_bound_bytes : boundBytes 20 4114 = [0x00, 0x14, 0x10, 0x12] := by decide
theorem test_chunk_counts :
    [0, 1, 2, 4095, 4096, 4097, 8192, 115200, 134400, 33538050].map (fun n => ceilDiv n 4096) =
      [0, 1, 1, 1, 1, 2, 2, 29, 33, 8189] := by decide
theorem test_chunks : chunks 2 [1, 2, 3, 4, 5] = [[1, 2], [3, 4], [5]] := by decide

/-! ### The requests, one step each (vectors 1.6, 1.8, 2.5, 2.6) -/

theorem test_reset : seen (step (presented (fresh 0) 0x10000000 [] 3)) =
    some ([.did (.pin .rst .high), .waited 10, .did (.pin .rst .low), .waited 10,
      .did (.pin .rst .high), .waited 10], [.ok]) := by decide
theorem test_reset_regs : regs (step (presented (ready 0 .landscape 280 240) 0x10000000 [] 3)) =
    some (.resetting, (.landscape, 280, 240), 0, .high, .low) := by decide

set_option maxRecDepth 4000 in
/-- The golden sequence of R174 and R187 (vectors 1.5), the fifteen tables holding fifteen different bytes:
every opcode in its place with its own table, then the wake wait and display-on. -/
theorem test_init :
    (reached (step (presented { fresh 0 with static := cfgTables } 0x201180F0 [] 121))).map
      (fun s => (s.trace, s.responses, s.lc, s.cfgW.toNat, s.cfgH.toNat, s.dcLvl)) =
    some ([.did (.pin .rst .high), .waited 10, .did (.pin .rst .low), .waited 10, .did (.pin .rst .high), .waited 10]
        ++ cmd 0x36 [1] ++ cmd 0x3A [2] ++ cmd 0xB2 [3] ++ cmd 0xB7 [4] ++ cmd 0xBB [5] ++ cmd 0xC0 [6]
        ++ cmd 0xC2 [7] ++ cmd 0xC3 [8] ++ cmd 0xC4 [9] ++ cmd 0xC6 [10] ++ cmd 0xD0 [11] ++ cmd 0xD6 [12]
        ++ cmd 0xE0 (List.replicate 14 13) ++ cmd 0xE1 (List.replicate 14 14) ++ cmd 0xE4 [15]
        ++ cmd 0x21 [] ++ cmd 0x11 [] ++ [.waited 100] ++ cmd 0x29 [],
      [.ok], .ready, 280, 240, .low) := by decide
/-- The first Spi of entry 1 fails: the configuration is written, the lifecycle is FAILED. -/
theorem test_init_fails :
    regs (step { fresh 0 with port := [.request ⟨0x201180F0, [], [.ok, .ok, .ok, .ok, .fail], none⟩] }) =
    some (.failed, (.landscape, 280, 240), 0, .high, .low) := by decide

theorem test_bright : seen (step (presented (fresh 0) 0x30000096 [] 1)) =
    some ([.did (.pwm 100)], [.ok]) := by decide
theorem test_bright_regs : regs (step (presented (fresh 0) 0x30000014 [] 1)) =
    some (.unreset, (.landscape, 0, 0), 20, .low, .low) := by decide

/-- Two columns by three in Landscape; in Portrait the three are the columns. -/
theorem test_clear :
    seen (step (presented (ready 0 .landscape 2 3) 0x40000000 [] 24)) =
      some (cmd 0x2A [0x00, 0x14, 0x00, 0x15] ++ cmd 0x2B [0x00, 0x00, 0x00, 0x02] ++ cmd 0x2C [] ++
        [.did (.pin .dc .high), .did (.spi (List.replicate 12 0xFF))], [.ok]) ∧
    seen (step (presented (ready 0 .portrait 2 3) 0x40000000 [] 24)) =
      some (cmd 0x2A [0x00, 0x00, 0x00, 0x02] ++ cmd 0x2B [0x00, 0x14, 0x00, 0x15] ++ cmd 0x2C [] ++
        [.did (.pin .dc .high), .did (.spi (List.replicate 12 0xFF))], [.ok]) := by decide
theorem test_clear_premature : seen (step (presented (fresh 0) 0x40000000 [] 0)) =
    some ([], [.prematureOperationError]) := by decide

/-- P3, request 3: path B. -/
theorem test_blit : seen (step (presented (ready 0 .portrait 2 3) 0x50003002
      ([0xFF0000, 0x00FF00, 0x0000FF, 0xFFFFFF, 0x000000, 0x123456].map .stable) 28)) =
    some (cmd 0x36 [0x00] ++ cmd 0x2A [0x00, 0x00, 0x00, 0x02] ++ cmd 0x2B [0x00, 0x14, 0x00, 0x15] ++
      cmd 0x2C [] ++ [.did (.pin .dc .high),
        .did (.spi [0xF8, 0x00, 0x07, 0xE0, 0x00, 0x1F, 0xFF, 0xFF, 0x00, 0x00, 0x11, 0xAA])], [.ok]) := by decide
/-- Path A of a square panel, then a shape of neither orientation. -/
theorem test_blit_square_and_shape :
    seen (step (presented (ready 0 .portrait 1 1) 0x50001001 [.stable 0xFF0000] 28)) =
      some (cmd 0x36 [0x70] ++ cmd 0x2A [0x00, 0x14, 0x00, 0x14] ++ cmd 0x2B [0x00, 0x00, 0x00, 0x00] ++
        cmd 0x2C [] ++ [.did (.pin .dc .high), .did (.spi [0xF8, 0x00])], [.ok]) ∧
    seen (step (presented (ready 0 .portrait 2 3) 0x50004004 [] 0)) =
      some ([], [.invalidBufferShapeError]) := by decide

/-- The codes on the response and in the lifecycle register (R251, R24). -/
theorem test_codes :
    [Status.ok, .configurationError, .transportError, .invalidBufferShapeError, .prematureOperationError,
      .illegalRequest].map statusCode = [0, 1, 2, 3, 4, 5] ∧
    [Lifecycle.unreset, .resetting, .initializing, .ready, .failed].map lifecycleCode = [0, 1, 2, 3, 4] := by decide

theorem test_illegal : seen (step (presented (fresh 0) 0x60000000 [] 0)) = some ([], [.illegalRequest]) := by decide
/-- Block reset after two events of a RESET: no status, the registers at reset. -/
theorem test_cut :
    seen (step { fresh 0 with port := [.request ⟨0x10000000, [], [.ok, .ok, .ok], some 2⟩] }) =
    some ([.did (.pin .rst .high), .waited 10], []) := by decide

/-! ### The controller commands, one step each (vectors 2.7) -/

theorem test_cmd36 : seen (exec (.cmd36 [0x70]) (running 30)) = some (cmd 0x36 [0x70], []) := by decide
theorem test_cmd3A : seen (exec (.cmd3A [0x70]) (running 30)) = some (cmd 0x3A [0x70], []) := by decide
theorem test_cmdB2 : seen (exec (.cmdB2 [0x70]) (running 30)) = some (cmd 0xB2 [0x70], []) := by decide
theorem test_cmdB7 : seen (exec (.cmdB7 [0x70]) (running 30)) = some (cmd 0xB7 [0x70], []) := by decide
theorem test_cmdBB : seen (exec (.cmdBB [0x70]) (running 30)) = some (cmd 0xBB [0x70], []) := by decide
theorem test_cmdC0 : seen (exec (.cmdC0 [0x70]) (running 30)) = some (cmd 0xC0 [0x70], []) := by decide
theorem test_cmdC2 : seen (exec (.cmdC2 [0x70]) (running 30)) = some (cmd 0xC2 [0x70], []) := by decide
theorem test_cmdC3 : seen (exec (.cmdC3 [0x70]) (running 30)) = some (cmd 0xC3 [0x70], []) := by decide
theorem test_cmdC4 : seen (exec (.cmdC4 [0x70]) (running 30)) = some (cmd 0xC4 [0x70], []) := by decide
theorem test_cmdC6 : seen (exec (.cmdC6 [0x70]) (running 30)) = some (cmd 0xC6 [0x70], []) := by decide
theorem test_cmdD0 : seen (exec (.cmdD0 [0x70]) (running 30)) = some (cmd 0xD0 [0x70], []) := by decide
theorem test_cmdD6 : seen (exec (.cmdD6 [0x70]) (running 30)) = some (cmd 0xD6 [0x70], []) := by decide
theorem test_cmdE0 : seen (exec (.cmdE0 (List.replicate 14 7)) (running 30)) = some (cmd 0xE0 (List.replicate 14 7), []) := by decide
theorem test_cmdE1 : seen (exec (.cmdE1 (List.replicate 14 7)) (running 30)) = some (cmd 0xE1 (List.replicate 14 7), []) := by decide
theorem test_cmdE4 : seen (exec (.cmdE4 [0x70]) (running 30)) = some (cmd 0xE4 [0x70], []) := by decide
theorem test_cmd21 : seen (exec .cmd21 (running 2)) = some (cmd 0x21 [], []) := by decide
theorem test_cmd11 : seen (exec .cmd11 (running 2)) = some (cmd 0x11 [], []) := by decide
theorem test_cmd29 : seen (exec .cmd29 (running 2)) = some (cmd 0x29 [], []) := by decide
theorem test_cmd2C : seen (exec .cmd2C (running 2)) = some (cmd 0x2C [], []) := by decide
theorem test_cmd2A : seen (exec (.cmd2A 20 299) (running 10)) =
    some (cmd 0x2A [0x00, 0x14, 0x01, 0x2B], []) := by decide
theorem test_cmd2B : seen (exec (.cmd2B 0 239) (running 10)) =
    some (cmd 0x2B [0x00, 0x00, 0x00, 0xEF], []) := by decide
theorem test_cmd_fails : seen (exec .cmd29 { running 0 with answers := [.ok, .fail] }) =
    some ([.did (.pin .dc .low), .failed (.spi [0x29])], [.transportError]) := by decide

/-! ### The host's table words -/

theorem test_table_request : decodeTableWord 32 0x500F0118 = some (.blit 240 280) := by decide
theorem test_table_wire : decodeTableWord 8 0x2A = some (.cmd2A 0 0) := by decide
theorem test_table_rejects : decodeTableWord 8 0x2D = none ∧ decodeTableWord 16 0x2A = none := by decide
theorem test_fetch_request :
    (reached (step ((fresh 0).withFetchWord 32 0x40000000))).map State.responses =
      some [.prematureOperationError] := by decide
theorem test_fetch_wire :
    seen (step ({ fresh 2 with answers := [.ok, .ok] }.withFetchWord 8 0x21)) = some (cmd 0x21 [], []) := by decide

/-! ### Witnesses: what meets the hypotheses of each obligation that has any -/

theorem uncut_of_none {s : State} (h : s.cut = none) (evs : List Event) : s.uncut evs :=
  fun k hk => by rw [h] at hk; cases hk

/-- Enough answers `ok` and no block reset: the environment is calm. -/
theorem calm_of_oks (n : Nat) {s : State} {evs : List Event} (ha : s.answers = List.replicate n .ok)
    (hn : actionCount evs ≤ n) (hc : s.cut = none) : s.calm evs := by
  refine ⟨fun k hk => ?_, uncut_of_none hc evs⟩
  simp [State.answerAt, ha, show k < n by omega]

/-- At the boundary values of the operand counts. -/
theorem witness_DecodeOfEncodeIsTheInstruction :
    (Instr.cmdE0 (List.replicate 14 0)).wf = true ∧ (Instr.cmd36 [0]).wf = true ∧
    (Instr.init .portrait 0 4095).wf = true := by decide

theorem witness_EveryAcceptedEncodingIsCanonical :
    decode (.request 0x20FFFFFF) = .ok (.init .landscape 4095 4095) ∧ decode (.wire 0x2C []) = .ok .cmd2C := by
  decide

/-- One word for each clause, at the ends of its ranges. -/
theorem witness_RequestDecodeFollowsItsTable :
    ((0x10000000 : ReqWord).toNat / 2 ^ 28 = 1 ∧ (0x10000000 : ReqWord).toNat % 2 ^ 28 = 0) ∧
    ((0x21FFFFFF : ReqWord).toNat / 2 ^ 28 = 2 ∧ (0x21FFFFFF : ReqWord).toNat / 2 ^ 25 % 2 ^ 3 = 0) ∧
    ((0x30007FFF : ReqWord).toNat / 2 ^ 28 = 3 ∧ (0x30007FFF : ReqWord).toNat / 2 ^ 16 % 2 ^ 12 = 0) ∧
    ((0x30008000 : ReqWord).toNat / 2 ^ 28 = 3 ∧ (0x30008000 : ReqWord).toNat / 2 ^ 16 % 2 ^ 12 = 0) ∧
    ((0x40000000 : ReqWord).toNat / 2 ^ 28 = 4 ∧ (0x40000000 : ReqWord).toNat % 2 ^ 28 = 0) ∧
    ((0x50FFFFFF : ReqWord).toNat / 2 ^ 28 = 5 ∧ (0x50FFFFFF : ReqWord).toNat / 2 ^ 24 % 2 ^ 4 = 0) := by decide

/-- The last clause of the same obligation: one word for each of its alternatives. -/
theorem witness_RequestDecodeFollowsItsTable_illegal :
    (0x0FFFFFFF : ReqWord).toNat / 2 ^ 28 = 0 ∧ 6 ≤ (0x60000000 : ReqWord).toNat / 2 ^ 28 ∧
    ((0x10000001 : ReqWord).toNat / 2 ^ 28 = 1 ∧ (0x10000001 : ReqWord).toNat % 2 ^ 28 ≠ 0) ∧
    ((0x48000000 : ReqWord).toNat / 2 ^ 28 = 4 ∧ (0x48000000 : ReqWord).toNat % 2 ^ 28 ≠ 0) ∧
    ((0x22000000 : ReqWord).toNat / 2 ^ 28 = 2 ∧ (0x22000000 : ReqWord).toNat / 2 ^ 25 % 2 ^ 3 ≠ 0) ∧
    ((0x30010000 : ReqWord).toNat / 2 ^ 28 = 3 ∧ (0x30010000 : ReqWord).toNat / 2 ^ 16 % 2 ^ 12 ≠ 0) ∧
    ((0x58000000 : ReqWord).toNat / 2 ^ 28 = 5 ∧ (0x58000000 : ReqWord).toNat / 2 ^ 24 % 2 ^ 4 ≠ 0) := by decide

theorem witness_StepRunsTheDecodedRequest :
    (presented (fresh 0) 0x40000000 [] 0).busy = false ∧
    (presented (fresh 0) 0x40000000 [] 0).port = [.request ⟨0x40000000, [], [], none⟩] ∧
    decodeRequest 0x40000000 = .ok .clear := ⟨rfl, rfl, rfl⟩

theorem witness_StepRunsTheDecodedCommand :
    ({ running 2 with seq := [.cmd 0x29 [], .setLc .ready] } : State).busy = true ∧
    ({ running 2 with seq := [.cmd 0x29 [], .setLc .ready] } : State).seq = .cmd 0x29 [] :: [.setLc .ready] ∧
    decodeWire 0x29 [] = .ok .cmd29 := ⟨rfl, rfl, rfl⟩

theorem witness_IdleBlockWaits : (fresh 0).busy = false ∧ (fresh 0).port = [] := ⟨rfl, rfl⟩

theorem witness_BlockResetAtABoundary :
    ({ ready 0 .portrait 2 3 with port := [.blockReset] } : State).busy = false ∧
    ({ ready 0 .portrait 2 3 with port := [.blockReset] } : State).port = .blockReset :: [] := ⟨rfl, rfl⟩

theorem witness_IllegalWordAnswersIllegalRequest :
    (presented (fresh 0) 0x60000000 [] 0).busy = false ∧
    (presented (fresh 0) 0x60000000 [] 0).port = .request ⟨0x60000000, [], [], none⟩ :: [] ∧
    decodeRequest 0x60000000 = .error .undefinedOperation ∧
    (∀ k, (⟨0x60000000, [], [], none⟩ : Presented).cut = some k → 0 < k) :=
  ⟨rfl, rfl, rfl, fun _ h => by cases h⟩

theorem witness_BusyBlockTakesNoWord :
    (presented (running 0) 0x40000000 [] 0).busy = true ∧
    ∃ t, step (presented (running 0) 0x40000000 [] 0) = .next t := ⟨rfl, _, rfl⟩

theorem witness_RunningRequestAnswersOkAtItsEnd :
    (running 0).busy = true ∧ (running 0).seq = [] ∧ (running 0).uncut [] := ⟨rfl, rfl, uncut_of_none rfl _⟩

/-- Each of the five requests. -/
theorem witness_AtomicRequestIsItsSequence :
    (isRequest .reset = true ∧ programOf .reset { fresh 3 with busy := true } =
      .ok (.setLc .resetting :: hardReset cfgMin)) ∧
    (isRequest (.init .portrait 2 3) = true ∧
      ∃ items, programOf (.init .portrait 2 3) { fresh 121 with busy := true } = .ok items) ∧
    (isRequest (.bright 20) = true ∧
      programOf (.bright 20) { fresh 1 with busy := true } = .ok [.pwm 20, .setBl 20]) ∧
    (isRequest .clear = true ∧
      ∃ items, programOf .clear { ready 24 .portrait 2 3 with busy := true } = .ok items) ∧
    (isRequest (.blit 3 2) = true ∧
      ∃ items, programOf (.blit 3 2) { ready 28 .portrait 2 3 with busy := true } = .ok items) :=
  ⟨⟨rfl, rfl⟩, ⟨rfl, _, rfl⟩, ⟨rfl, rfl⟩, ⟨rfl, _, rfl⟩, rfl, _, rfl⟩

theorem witness_ResetDrivesThreeEdges : (fresh 3).calm (traceHardReset (fresh 3).static) :=
  calm_of_oks 3 rfl (by decide) rfl

set_option maxRecDepth 4000 in
theorem witness_InitSendsTheInitSequence :
    (280 : Dim) ≠ 0 ∧ (240 : Dim) ≠ 0 ∧ (fresh 121).calm (traceInit (fresh 121).static) :=
  ⟨by decide, by decide, calm_of_oks 121 rfl (by decide) rfl⟩

theorem witness_InitRejectsAZeroDimension :
    ((0 : Dim) = 0 ∨ (240 : Dim) = 0) ∧ ((280 : Dim) = 0 ∨ (0 : Dim) = 0) ∧ (fresh 0).uncut [] :=
  ⟨.inl rfl, .inr rfl, uncut_of_none rfl _⟩

/-- Below, at and above each end of the range. -/
theorem witness_BrightSetsTheClampedDuty :
    (((0 : BitVec 7).toNat : Int) = max 0 (min 100 (0xFFFF : Half).toInt)) ∧
    (((0 : BitVec 7).toNat : Int) = max 0 (min 100 (0 : Half).toInt)) ∧
    (((100 : BitVec 7).toNat : Int) = max 0 (min 100 (100 : Half).toInt)) ∧
    (((100 : BitVec 7).toNat : Int) = max 0 (min 100 (101 : Half).toInt)) ∧
    (fresh 1).calm [.did (.pwm 0)] ∧ (fresh 1).calm [.did (.pwm 100)] :=
  ⟨by decide, by decide, by decide, by decide, calm_of_oks 1 rfl (by decide) rfl,
    calm_of_oks 1 rfl (by decide) rfl⟩

theorem witness_BrightFailureChangesNothing :
    ({ fresh 0 with answers := [.fail] } : State).answerAt 0 = .fail ∧
    ({ fresh 0 with answers := [.fail] } : State).uncut [.failed (.pwm (clampPercent (percentOf 40)))] :=
  ⟨rfl, uncut_of_none rfl _⟩

theorem witness_ClearFillsTheWindowWhite :
    ((ready 24 .portrait 2 3).lc = .ready ∧ (ready 24 .portrait 2 3).cfgOrient = .portrait ∧
      (ready 24 .portrait 2 3).calm (traceClear (ready 24 .portrait 2 3))) ∧
    ((ready 24 .landscape 1 1).lc = .ready ∧ (ready 24 .landscape 1 1).cfgOrient = .landscape ∧
      (ready 24 .landscape 1 1).calm (traceClear (ready 24 .landscape 1 1))) :=
  ⟨⟨rfl, rfl, calm_of_oks 24 rfl (by decide) rfl⟩, rfl, rfl, calm_of_oks 24 rfl (by decide) rfl⟩

theorem witness_DrawingOutsideReadyIsPremature : (fresh 0).lc ≠ .ready ∧ (fresh 0).uncut [] :=
  ⟨by decide, uncut_of_none rfl _⟩

/-- A panel that is not square, and a square one. -/
theorem witness_BlitLandscapePath :
    ((ready 28 .portrait 2 3).lc = .ready ∧ 2 = (ready 28 .portrait 2 3).cfgW ∧ 3 = (ready 28 .portrait 2 3).cfgH ∧
      (ready 28 .portrait 2 3).calm (traceBlitA (ready 28 .portrait 2 3) 2 3)) ∧
    (1 = (ready 28 .portrait 1 1).cfgW ∧ 1 = (ready 28 .portrait 1 1).cfgH ∧
      (ready 28 .portrait 1 1).calm (traceBlitA (ready 28 .portrait 1 1) 1 1)) :=
  ⟨⟨rfl, rfl, rfl, calm_of_oks 28 rfl (by decide) rfl⟩, rfl, rfl, calm_of_oks 28 rfl (by decide) rfl⟩

theorem witness_BlitPortraitPath :
    (ready 28 .landscape 2 3).lc = .ready ∧ 3 = (ready 28 .landscape 2 3).cfgH ∧
    2 = (ready 28 .landscape 2 3).cfgW ∧ (ready 28 .landscape 2 3).cfgW ≠ (ready 28 .landscape 2 3).cfgH ∧
    (ready 28 .landscape 2 3).calm (traceBlitB (ready 28 .landscape 2 3) 3 2) :=
  ⟨rfl, rfl, rfl, by decide, calm_of_oks 28 rfl (by decide) rfl⟩

theorem witness_BlitRejectsAWrongShape :
    (ready 0 .landscape 280 240).lc = .ready ∧
    ¬ ((280 : Dim) = (ready 0 .landscape 280 240).cfgW ∧ (280 : Dim) = (ready 0 .landscape 280 240).cfgH) ∧
    ¬ ((280 : Dim) = (ready 0 .landscape 280 240).cfgH ∧ (280 : Dim) = (ready 0 .landscape 280 240).cfgW) ∧
    (ready 0 .landscape 280 240).uncut [] := ⟨rfl, by decide, by decide, uncut_of_none rfl _⟩

/-- The shortest and the longest parameter list the block's tables ask for, and each of the fifteen opcodes. -/
theorem witness_ParameterisedCommandsEmit :
    (running 30).calm (traceCmd 0x36 [0x70]) ∧ (running 30).calm (traceCmd 0xE0 (0 :: List.replicate 13 0)) ∧
    ([0x36, 0x3A, 0xB2, 0xB7, 0xBB, 0xC0, 0xC2, 0xC3, 0xC4, 0xC6, 0xD0, 0xD6, 0xE0, 0xE1, 0xE4].all
      fun op => decide (actionCount (traceCmd op [0x70]) ≤ 30)) = true :=
  ⟨calm_of_oks 30 rfl (by decide) rfl, calm_of_oks 30 rfl (by decide) rfl, by decide⟩

theorem witness_BareCommandsEmit :
    (running 2).calm [.did (.pin .dc .low), .did (.spi [0x21])] ∧
    (running 2).calm [.did (.pin .dc .low), .did (.spi [0x11])] ∧
    (running 2).calm [.did (.pin .dc .low), .did (.spi [0x29])] ∧
    (running 2).calm [.did (.pin .dc .low), .did (.spi [0x2C])] :=
  ⟨calm_of_oks 2 rfl (by decide) rfl, calm_of_oks 2 rfl (by decide) rfl, calm_of_oks 2 rfl (by decide) rfl,
    calm_of_oks 2 rfl (by decide) rfl⟩

theorem witness_WindowCommandsSplitTheirBounds :
    (running 10).calm (traceCmd 0x2A [0x00, 0x14, 0x01, 0x2B]) ∧
    (running 10).calm (traceCmd 0x2B [0xFF, 0xFF, 0x00, 0x00]) :=
  ⟨calm_of_oks 10 rfl (by decide) rfl, calm_of_oks 10 rfl (by decide) rfl⟩

/-- The first action of a controller command fails, and its last; then a request's last, and BRIGHT's only one. -/
theorem witness_AFailedActionEndsTheRequest :
    ((fullTrace .cmd29 { running 0 with answers := [.fail] })[0]? = some (.did (.pin .dc .low)) ∧
      ({ running 0 with answers := [.fail] } : State).uncut (fullTrace .cmd29 (running 0)) ∧
      ({ running 0 with answers := [.fail] } : State).answerAt 0 = .fail) ∧
    ((fullTrace .cmd29 (running 0))[1]? = some (.did (.spi [0x29])) ∧
      (∀ j, j < 1 → ({ running 0 with answers := [.ok, .fail] } : State).answerAt j = .ok) ∧
      ({ running 0 with answers := [.ok, .fail] } : State).answerAt 1 = .fail) ∧
    ((fullTrace .reset (fresh 0))[4]? = some (.did (.pin .rst .high)) ∧
      actionCount ((fullTrace .reset (fresh 0)).take 4) = 2 ∧
      ({ fresh 0 with answers := [.ok, .ok, .fail] } : State).answerAt 2 = .fail) ∧
    ((fullTrace (.bright 40) (fresh 0))[0]? = some (.did (.pwm 40)) ∧
      ({ fresh 0 with answers := [.fail] } : State).answerAt 0 = .fail) :=
  ⟨⟨rfl, uncut_of_none rfl _, rfl⟩, ⟨rfl, by decide, rfl⟩, ⟨rfl, rfl, rfl⟩, by decide, rfl⟩

theorem witness_EveryTraceIsAPrefixOrFailsNext :
    (∃ t, exec .reset (fresh 3) = .next t) ∧ (∃ t, exec .cmd29 (running 2) = .next t) := ⟨⟨_, rfl⟩, _, rfl⟩

theorem witness_EveryRequestAnswersOnce :
    isRequest .reset = true ∧ (fresh 3).uncut (fullTrace .reset (fresh 3)) ∧ ∃ t, exec .reset (fresh 3) = .next t :=
  ⟨rfl, uncut_of_none rfl _, _, rfl⟩

/-- A TransportError of RESET and of BRIGHT, and an error of a check. -/
theorem witness_ErrorEffectByStatus :
    (isRequest .reset = true ∧ ({ fresh 0 with answers := [.fail] } : State).uncut
        (fullTrace .reset { fresh 0 with answers := [.fail] }) ∧
      (reached (exec .reset { fresh 0 with answers := [.fail] })).map State.responses = some [.transportError]) ∧
    (reached (exec (.bright 40) { fresh 0 with answers := [.fail] })).map State.responses =
      some [.transportError] ∧
    (reached (exec .clear (fresh 0))).map State.responses = some [.prematureOperationError] :=
  ⟨⟨rfl, uncut_of_none rfl _, by decide⟩, by decide, by decide⟩

theorem witness_ChecksComeInOrder :
    isRequest (.init .landscape 0 240) = true ∧
    (fresh 0).uncut (fullTrace (.init .landscape 0 240) (fresh 0)) ∧
    ∃ t, exec (.init .landscape 0 240) (fresh 0) = .next t := ⟨rfl, uncut_of_none rfl _, _, rfl⟩

/-- Block reset before the first event, and at the response. -/
theorem witness_BlockResetCutsARequestShort :
    (isRequest .reset = true ∧ ({ fresh 3 with cut := some 0 } : State).cut = some 0 ∧
      0 ≤ (fullTrace .reset { fresh 3 with cut := some 0 }).length) ∧
    (({ fresh 3 with cut := some 6 } : State).cut = some 6 ∧
      6 ≤ (fullTrace .reset { fresh 3 with cut := some 6 }).length ∧
      ∀ j, j < actionCount ((fullTrace .reset { fresh 3 with cut := some 6 }).take 6) →
        ({ fresh 3 with cut := some 6 } : State).answerAt j = .ok) :=
  ⟨⟨rfl, rfl, Nat.zero_le _⟩, rfl, by decide, by decide⟩

theorem witness_FrameOfReset :
    (fresh 3).uncut (fullTrace .reset (fresh 3)) ∧ ∃ t, exec .reset (fresh 3) = .next t :=
  ⟨uncut_of_none rfl _, _, rfl⟩

/-- Each clause: hardReset not completed, and completed. -/
theorem witness_FrameOfInit :
    (({ fresh 0 with answers := [.fail] } : State).uncut
        (fullTrace (.init .portrait 2 3) { fresh 0 with answers := [.fail] }) ∧
      (reached (exec (.init .portrait 2 3) { fresh 0 with answers := [.fail] })).map State.trace =
        some [.failed (.pin .rst .high)]) ∧
    ((reached (exec (.init .portrait 2 3) { fresh 0 with answers := [.ok, .ok, .ok, .fail] })).map State.trace =
        some (traceHardReset cfgMin ++ [.failed (.pin .dc .low)])) :=
  ⟨⟨uncut_of_none rfl _, by decide⟩, by decide⟩

theorem witness_FrameOfBright :
    (fresh 1).uncut (fullTrace (.bright 20) (fresh 1)) ∧ ∃ t, exec (.bright 20) (fresh 1) = .next t :=
  ⟨uncut_of_none rfl _, _, rfl⟩

theorem witness_FrameOfClearAndBlit :
    ((ready 24 .portrait 1 1).uncut (fullTrace .clear (ready 24 .portrait 1 1)) ∧
      ∃ t, exec .clear (ready 24 .portrait 1 1) = .next t) ∧
    ((ready 28 .portrait 1 1).uncut (fullTrace (.blit 1 1) (ready 28 .portrait 1 1)) ∧
      ∃ t, exec (.blit 1 1) (ready 28 .portrait 1 1) = .next t) :=
  ⟨⟨uncut_of_none rfl _, _, rfl⟩, uncut_of_none rfl _, _, rfl⟩

theorem witness_FrameOfCommands :
    isRequest .cmd29 = false ∧ (running 2).uncut (fullTrace .cmd29 (running 2)) ∧
    ∃ t, exec .cmd29 (running 2) = .next t := ⟨rfl, uncut_of_none rfl _, _, rfl⟩

theorem witness_StaticConfigurationNeverChanges : ∃ t, step (presented (fresh 0) 0x10000000 [] 3) = .next t :=
  ⟨_, rfl⟩

theorem witness_BlitIgnoresTheStoredOrientation :
    ∃ t u, exec (.blit 1 1) (ready 28 .portrait 1 1) = .next t ∧
      exec (.blit 1 1) { ready 28 .portrait 1 1 with cfgOrient := .landscape } = .next u := ⟨_, _, rfl, rfl⟩

theorem witness_OnlyBlitReadsThePixels : isRequest .clear = true ∧ ∀ cols rows, Instr.clear ≠ .blit cols rows :=
  ⟨rfl, fun _ _ h => by cases h⟩

/-- A READY block with a word at its port. -/
theorem witness_StepKeepsTheBoundary :
    (presented (ready 0 .portrait 2 3) 0x40000000 [] 30).Boundary ∧
    ∃ t, step (presented (ready 0 .portrait 2 3) 0x40000000 [] 30) = .next t :=
  ⟨⟨rfl, rfl, rfl, by decide, by decide, fun _ => by decide, by decide, rfl⟩, _, rfl⟩

theorem witness_BoundaryNeverStops : (presented (ready 0 .portrait 2 3) 0xFFFFFFFF [] 0).Boundary :=
  ⟨rfl, rfl, rfl, by decide, by decide, fun _ => by decide, by decide, rfl⟩

/-- One request of each clause, with its status. -/
theorem witness_LifecycleTransitions :
    isRequest .reset = true ∧ (fresh 3).uncut (fullTrace .reset (fresh 3)) ∧
    (reached (exec .reset (fresh 3))).map State.responses = some [.ok] ∧
    (reached (exec (.init .portrait 0 3) (fresh 0))).map State.responses = some [.configurationError] ∧
    (reached (exec (.bright 20) (fresh 1))).map State.responses = some [.ok] ∧
    (reached (exec .clear (ready 24 .portrait 1 1))).map State.responses = some [.ok] :=
  ⟨rfl, uncut_of_none rfl _, by decide, by decide, by decide, by decide⟩

set_option maxRecDepth 4000 in
theorem witness_OnlyInitReachesReady :
    (presented (fresh 0) 0x211180F0 [] 121).busy = false ∧ (presented (fresh 0) 0x211180F0 [] 121).lc ≠ .ready ∧
    (reached (step (presented (fresh 0) 0x211180F0 [] 121))).map State.lc = some .ready :=
  ⟨rfl, by decide, by decide⟩

theorem witness_FrameHoldsEachPixelInOrder : [0xFF0000, (0x00FF00 : Pixel)][1]? = some 0x00FF00 := by decide

theorem witness_StablePixelsAreReadInOrder :
    1 < 2 ∧ [PixCell.changing, .stable 0x123456][1]? = some (.stable 0x123456) := by decide

/-- A chunk that is not the last, and the last. -/
theorem witness_ChunksPartitionTheBlock :
    0 < 2 ∧ (chunks 2 [1, 2, 3])[0]? = some [1, 2] ∧ 0 + 1 < ceilDiv ([1, 2, 3] : List Byte).length 2 ∧
    (chunks 2 [1, 2, 3])[1]? = some [3] ∧ 1 + 1 = ceilDiv ([1, 2, 3] : List Byte).length 2 ∧
    [1, 2] ∈ chunks 2 [1, 2, 3] := by decide

theorem witness_ChunksNeverSplitAPixel : cfgMin.wf = true := by decide

/-- The smallest and the largest rectangle. -/
theorem witness_WindowBoundsAreExact :
    ({ cfgMin with offset := 61441 } : Config).wf = true ∧ (⟨0, 0, 1, 1⟩ : Rect).valid = true ∧
    (⟨4094, 4094, 4095, 4095⟩ : Rect).valid = true := by decide

theorem witness_SinglePixelWindow : (⟨5, 5, 6, 6⟩ : Rect).xEnd = (⟨5, 5, 6, 6⟩ : Rect).xStart + 1 ∧
    (⟨5, 5, 6, 6⟩ : Rect).yEnd = (⟨5, 5, 6, 6⟩ : Rect).yStart + 1 := by decide

theorem witness_PayloadFillsTheWindow :
    (ready 0 .portrait 2 4095).static.wf = true ∧ (ready 0 .portrait 2 4095).cfgW ≠ 0 ∧
    (ready 0 .portrait 2 4095).cfgH ≠ 0 := by decide

theorem witness_ConstructionChecksTheConfiguration :
    (∃ s, construct cfgMin = .ok s) ∧ construct { cfgMin with chunk := 3 } = .error .configurationError :=
  ⟨⟨_, rfl⟩, rfl⟩

theorem witness_OutputsShowTheState :
    (fresh 0).blPct = 0 ∧ ({ fresh 0 with blPct := 100 } : State).blPct = 100 := ⟨rfl, rfl⟩

end Sys2Proof.Tests
end

section
/-! The statement about the state after block reset. -/

namespace Sys2Proof.Machine

/-- Settles O57: `State.reset` assigns each field the value in R38's table, and the empty lists say that no
transient (R33, R34) and no rest of a sequence (R35) is held. -/
theorem resetValues : Obligations.ResetValues := by
  unfold Obligations.ResetValues
  exact ⟨rfl, rfl, rfl, rfl, rfl, rfl, rfl, rfl, rfl, rfl⟩

end Sys2Proof.Machine
end

section
/-! A frame has two bytes for each pixel (R152), so cutting it at an even offset cuts its pixels at half that
offset; `CHUNK` is even (R7), so every chunk boundary is such a cut. -/

namespace Sys2Proof.Machine

theorem encodeFrame_cons (p : Pixel) (ps : List Pixel) :
    encodeFrame (p :: ps) =
      enc565Hi (red p) (green p) :: enc565Lo (green p) (blue p) :: encodeFrame ps := rfl

theorem drop_encodeFrame (n : Nat) (ps : List Pixel) :
    (encodeFrame ps).drop (2 * n) = encodeFrame (ps.drop n) := by
  induction n generalizing ps with
  | zero => rfl
  | succ n ih =>
    cases ps with
    | nil => rfl
    | cons p ps => simpa only [encodeFrame_cons, Nat.mul_succ, List.drop_succ_cons] using ih ps

theorem take_encodeFrame (n : Nat) (ps : List Pixel) :
    (encodeFrame ps).take (2 * n) = encodeFrame (ps.take n) := by
  induction n generalizing ps with
  | zero => rfl
  | succ n ih =>
    cases ps with
    | nil => rfl
    | cons p ps => simp only [encodeFrame_cons, Nat.mul_succ, List.take_succ_cons, ih]

/-- R114 on a frame: with a chunk of `m` pixels, chunk `k` is the encoding of the pixels from `k * m` on, `m` of
them at most. -/
theorem chunkAt_encodeFrame (m : Nat) (ps : List Pixel) (k : Nat) :
    chunkAt (2 * m) (encodeFrame ps) k = encodeFrame ((ps.drop (k * m)).take m) := by
  rw [chunkAt, Nat.mul_left_comm, drop_encodeFrame, take_encodeFrame]

/-- Settles O52: R7 makes `CHUNK` twice a number of pixels, and then each chunk takes whole pixels. -/
theorem chunksNeverSplitAPixel : Obligations.ChunksNeverSplitAPixel := by
  unfold Obligations.ChunksNeverSplitAPixel
  intro c ps k hwf
  obtain ⟨_, heven, _, _⟩ := Config.wf_bounds hwf
  have hchunk : 2 * (c.chunk / 2) = c.chunk := Nat.mul_div_cancel' (Nat.dvd_of_mod_eq_zero heven)
  simpa only [hchunk] using chunkAt_encodeFrame (c.chunk / 2) ps k

end Sys2Proof.Machine
end

section
/-! The request decoder (R90) with the fields of its word read by arithmetic: bits `start + len - 1` down to `start`
are `w.toNat / 2 ^ start % 2 ^ len`, and the operation, bits 31 to 28, is `w.toNat / 2 ^ 28`. -/

namespace Sys2Proof.Machine

/-! ### Fields of a word by arithmetic -/

theorem extractLsb'_eq_ofNat_div_mod (w : ReqWord) (start len : Nat) :
    w.extractLsb' start len = BitVec.ofNat len (w.toNat / 2 ^ start % 2 ^ len) := by
  apply BitVec.eq_of_toNat_eq
  rw [BitVec.extractLsb'_toNat, BitVec.toNat_ofNat, Nat.shiftRight_eq_div_pow, Nat.mod_mod]

theorem extractLsb'_eq_zero_iff (w : ReqWord) (start len : Nat) :
    w.extractLsb' start len = 0#len ↔ w.toNat / 2 ^ start % 2 ^ len = 0 := by
  rw [← BitVec.toNat_inj, BitVec.extractLsb'_toNat, Nat.shiftRight_eq_div_pow]
  simp

theorem operation_eq_iff (w : ReqWord) (op : BitVec 4) : w.extractLsb' 28 4 = op ↔ w.toNat / 2 ^ 28 = op.toNat := by
  have hw := w.isLt
  rw [← BitVec.toNat_inj, BitVec.extractLsb'_toNat, Nat.shiftRight_eq_div_pow, Nat.mod_eq_of_lt (by omega)]

theorem orientOfBit_extractLsb' (w : ReqWord) :
    orientOfBit (w.extractLsb' 24 1) = if w.toNat / 2 ^ 24 % 2 = 0 then .landscape else .portrait := by
  simp [orientOfBit, extractLsb'_eq_zero_iff]

/-- R85: the percent is the low half of the word as a signed 16-bit number. -/
theorem percentOf_extractLsb' (w : ReqWord) :
    percentOf (w.extractLsb' 0 16) = if w.toNat % 2 ^ 16 < 2 ^ 15 then (w.toNat % 2 ^ 16 : Int)
      else (w.toNat % 2 ^ 16 : Int) - 2 ^ 16 := by
  have hlow : (w.extractLsb' 0 16).toNat = w.toNat % 2 ^ 16 := by
    rw [BitVec.extractLsb'_toNat, Nat.shiftRight_zero]
  rw [percentOf, BitVec.toInt_eq_toNat_cond, hlow]
  split <;> split <;> omega

/-! ### One equation for each operation -/

section
variable {w : ReqWord}

theorem decodeRequest_reset (hop : w.toNat / 2 ^ 28 = 1) :
    decodeRequest w = if w.toNat % 2 ^ 28 = 0 then .ok .reset else .error .reservedBitsSet := by
  simp [decodeRequest, (operation_eq_iff w 1).mpr hop, extractLsb'_eq_zero_iff]

theorem decodeRequest_init (hop : w.toNat / 2 ^ 28 = 2) :
    decodeRequest w =
      if w.toNat / 2 ^ 25 % 2 ^ 3 = 0 then
        .ok (.init (orientOfBit (w.extractLsb' 24 1)) (w.extractLsb' 12 12) (w.extractLsb' 0 12))
      else .error .reservedBitsSet := by
  simp [decodeRequest, (operation_eq_iff w 2).mpr hop, extractLsb'_eq_zero_iff]

theorem decodeRequest_bright (hop : w.toNat / 2 ^ 28 = 3) :
    decodeRequest w =
      if w.toNat / 2 ^ 16 % 2 ^ 12 = 0 then .ok (.bright (w.extractLsb' 0 16)) else .error .reservedBitsSet := by
  simp [decodeRequest, (operation_eq_iff w 3).mpr hop, extractLsb'_eq_zero_iff]

theorem decodeRequest_clear (hop : w.toNat / 2 ^ 28 = 4) :
    decodeRequest w = if w.toNat % 2 ^ 28 = 0 then .ok .clear else .error .reservedBitsSet := by
  simp [decodeRequest, (operation_eq_iff w 4).mpr hop, extractLsb'_eq_zero_iff]

theorem decodeRequest_blit (hop : w.toNat / 2 ^ 28 = 5) :
    decodeRequest w =
      if w.toNat / 2 ^ 24 % 2 ^ 4 = 0 then .ok (.blit (w.extractLsb' 12 12) (w.extractLsb' 0 12))
      else .error .reservedBitsSet := by
  simp [decodeRequest, (operation_eq_iff w 5).mpr hop, extractLsb'_eq_zero_iff]

theorem decodeRequest_undefined (hop : w.toNat / 2 ^ 28 = 0 ∨ 6 ≤ w.toNat / 2 ^ 28) :
    decodeRequest w = .error .undefinedOperation := by
  have hne (op : BitVec 4) (h1 : 1 ≤ op.toNat) (h5 : op.toNat ≤ 5) : w.extractLsb' 28 4 ≠ op := by
    rw [Ne, operation_eq_iff]
    omega
  simp only [decodeRequest]
  rw [if_neg (hne 1 (by decide) (by decide)), if_neg (hne 2 (by decide) (by decide)),
    if_neg (hne 3 (by decide) (by decide)), if_neg (hne 4 (by decide) (by decide)),
    if_neg (hne 5 (by decide) (by decide))]

end

/-- Settles O3: each clause is the equation of its operation, with the reserved bits clear in an accepted word and
set in a rejected one. -/
theorem requestDecodeFollowsItsTable : Obligations.RequestDecodeFollowsItsTable := by
  unfold Obligations.RequestDecodeFollowsItsTable
  intro w
  have hhigh := extractLsb'_eq_ofNat_div_mod w 12 12
  have hlow := extractLsb'_eq_ofNat_div_mod w 0 12
  rw [Nat.pow_zero, Nat.div_one] at hlow
  refine ⟨?reset, ?init, ?bright, ?clear, ?blit, ?illegal⟩
  case reset => intro hop hres; rw [decodeRequest_reset hop, if_pos hres]
  case init =>
    intro hop hres
    rw [decodeRequest_init hop, if_pos hres, orientOfBit_extractLsb', hhigh, hlow]
  case bright =>
    intro hop hres
    exact ⟨_, by rw [decodeRequest_bright hop, if_pos hres], percentOf_extractLsb' w⟩
  case clear => intro hop hres; rw [decodeRequest_clear hop, if_pos hres]
  case blit => intro hop hres; rw [decodeRequest_blit hop, if_pos hres, hhigh, hlow]
  case illegal =>
    rintro (hop | hop | ⟨hop | hop, hres⟩ | ⟨hop, hres⟩ | ⟨hop, hres⟩ | ⟨hop, hres⟩)
    · exact ⟨_, decodeRequest_undefined (.inl hop)⟩
    · exact ⟨_, decodeRequest_undefined (.inr hop)⟩
    · exact ⟨_, by rw [decodeRequest_reset hop, if_neg hres]⟩
    · exact ⟨_, by rw [decodeRequest_clear hop, if_neg hres]⟩
    · exact ⟨_, by rw [decodeRequest_init hop, if_neg hres]⟩
    · exact ⟨_, by rw [decodeRequest_bright hop, if_neg hres]⟩
    · exact ⟨_, by rw [decodeRequest_blit hop, if_neg hres]⟩

end Sys2Proof.Machine
end

section
/-! The chunks of a block (R114). Chunk `k` holds the bytes from `k * c` on, so the first `m` chunks in order are the
first `m * c` bytes of the block, and `ceil(N / CHUNK)` chunks reach its end but do not pass it by a whole chunk. -/

namespace Sys2Proof.Machine

theorem le_ceilDiv_mul {c : Nat} (hc : 0 < c) (n : Nat) : n ≤ ceilDiv n c * c := by
  have h : n + (c - 1) < ceilDiv n c * c + c := Nat.lt_div_mul_add hc
  omega

theorem length_chunkAt (c : Nat) (bs : List Byte) (k : Nat) :
    (chunkAt c bs k).length = min c (bs.length - k * c) := by
  rw [chunkAt, List.length_take, List.length_drop]

theorem length_chunks (c : Nat) (bs : List Byte) : (chunks c bs).length = ceilDiv bs.length c := by
  rw [chunks, List.length_map, List.length_range]

theorem chunkAt_of_getElem?_chunks {c : Nat} {bs : List Byte} {k : Nat} {ch : List Byte}
    (h : (chunks c bs)[k]? = some ch) : ch = chunkAt c bs k := by
  obtain ⟨_, rfl⟩ := List.getElem?_eq_some_iff.mp h
  simp only [chunks, List.getElem_map, List.getElem_range]

theorem flatten_map_chunkAt_range (c : Nat) (bs : List Byte) (m : Nat) :
    ((List.range m).map (chunkAt c bs)).flatten = bs.take (m * c) := by
  induction m with
  | zero => simp
  | succ m ih =>
    rw [List.range_succ, List.map_append, List.flatten_append, ih, List.map_singleton, List.flatten_singleton,
      chunkAt, Nat.succ_mul, List.take_add]

theorem flatten_chunks {c : Nat} (hc : 0 < c) (bs : List Byte) : (chunks c bs).flatten = bs := by
  rw [chunks, flatten_map_chunkAt_range, List.take_of_length_le (le_ceilDiv_mul hc bs.length)]

/-- A chunk that another one follows is full: the one that follows starts inside the block. -/
theorem length_chunkAt_of_not_last {c : Nat} (hc : 0 < c) {bs : List Byte} {k : Nat}
    (hk : k + 1 < ceilDiv bs.length c) : (chunkAt c bs k).length = c := by
  have hnext : (k + 1) * c < bs.length := ceilDiv_lt hc hk
  rw [Nat.succ_mul] at hnext
  rw [length_chunkAt]
  omega

/-- The last chunk has the bytes that the full ones before it leave. -/
theorem length_chunkAt_of_last {c : Nat} (hc : 0 < c) {bs : List Byte} {k : Nat}
    (hk : k + 1 = ceilDiv bs.length c) : (chunkAt c bs k).length = bs.length - k * c := by
  have hend : bs.length ≤ (k + 1) * c := hk ▸ le_ceilDiv_mul hc bs.length
  rw [Nat.succ_mul] at hend
  rw [length_chunkAt]
  omega

/-- Settles O51: a chunk found at place `k` is `chunkAt c bs k`, and its length depends on whether `k` is the last
place. -/
theorem chunksPartitionTheBlock : Obligations.ChunksPartitionTheBlock := by
  unfold Obligations.ChunksPartitionTheBlock
  intro c bs hc
  refine ⟨length_chunks c bs, flatten_chunks hc bs, chunks_len c hc bs, ?full, ?last, ?bytes⟩
  case full =>
    intro k ch hch hk
    rw [chunkAt_of_getElem?_chunks hch, length_chunkAt_of_not_last hc hk]
  case last =>
    intro k ch hch hk
    rw [chunkAt_of_getElem?_chunks hch, length_chunkAt_of_last hc hk, ← hk, Nat.add_sub_cancel, Nat.mul_comm]
  case bytes => exact fun k ch hch => chunkAt_of_getElem?_chunks hch

end Sys2Proof.Machine
end

section
/-! Window bounds (R131 to R136). The block computes them as natural numbers and sends them as 16 bits; R7 leaves room
for the offset, so a valid rectangle's bounds keep their value. -/

namespace Sys2Proof.Machine

/-! ### A bound as two bytes -/

theorem hiByte_eq_ofNat_div (v : Half) : hiByte v = BitVec.ofNat 8 (v.toNat / 256) := by
  rw [hiByte, BitVec.extractLsb', Nat.shiftRight_eq_div_pow]

theorem loByte_eq_ofNat_mod (v : Half) : loByte v = BitVec.ofNat 8 (v.toNat % 256) := by
  apply BitVec.eq_of_toNat_eq
  rw [loByte, BitVec.extractLsb'_toNat, Nat.shiftRight_zero, BitVec.toNat_ofNat, Nat.mod_mod]

theorem boundBytes_eq_div_mod (a b : Half) :
    boundBytes a b = [BitVec.ofNat 8 (a.toNat / 256), BitVec.ofNat 8 (a.toNat % 256),
      BitVec.ofNat 8 (b.toNat / 256), BitVec.ofNat 8 (b.toNat % 256)] := by
  simp only [boundBytes, hiByte_eq_ofNat_div, loByte_eq_ofNat_mod]

/-- A window command in a calm environment: its bounds are four parameter bytes, so the last level of DC is high. -/
theorem exec_windowCommand_calm {i : Instr} {s : State} {op : Byte} {a b : Half}
    (h : encode i = .wire op (boundBytes a b)) (hc : s.calm (traceCmd op (boundBytes a b))) :
    exec i s = .next { s.after (traceCmd op (boundBytes a b)) with rstLvl := s.rstLvl, dcLvl := .high } := by
  have hne : boundBytes a b ≠ [] := List.cons_ne_nil _ _
  rw [exec_command_calm i s op _ h hc, if_neg hne]

/-- Settles O27: both commands encode their bounds by `boundBytes`, whose bytes are the quotients and remainders. -/
theorem windowCommandsSplitTheirBounds : Obligations.WindowCommandsSplitTheirBounds := by
  unfold Obligations.WindowCommandsSplitTheirBounds
  intro s a b op i hi
  have henc : encode i = .wire op (boundBytes a b) := by
    simp only [List.mem_cons, List.not_mem_nil, or_false, Prod.mk.injEq] at hi
    obtain ⟨rfl, rfl⟩ | ⟨rfl, rfl⟩ := hi <;> rfl
  rw [← boundBytes_eq_div_mod]
  exact exec_windowCommand_calm henc

/-! ### The bounds of a resolved window -/

theorem Rect.valid_iff (r : Rect) :
    r.valid = true ↔ (r.xStart < r.xEnd ∧ r.xEnd ≤ 4095) ∧ r.yStart < r.yEnd ∧ r.yEnd ≤ 4095 := by
  simp only [Rect.valid, Bool.and_eq_true, decide_eq_true_eq, and_assoc]

theorem columnOffset_le (offset : Nat) (o : Orientation) : columnOffset offset o ≤ offset := by
  cases o with
  | landscape => exact Nat.le_refl _
  | portrait => exact Nat.zero_le _

theorem rowOffset_le (offset : Nat) (o : Orientation) : rowOffset offset o ≤ offset := by
  cases o with
  | landscape => exact Nat.zero_le _
  | portrait => exact Nat.le_refl _

/-- R136: 16 bits lose nothing of a bound. -/
theorem resolveWindow_toNat {c : Config} {r : Rect} (hwf : c.wf = true) (hr : r.valid = true) (o : Orientation) :
    (resolveWindow c.offset r o).c0.toNat = r.xStart + columnOffset c.offset o ∧
    (resolveWindow c.offset r o).c1.toNat = r.xEnd - 1 + columnOffset c.offset o ∧
    (resolveWindow c.offset r o).r0.toNat = r.yStart + rowOffset c.offset o ∧
    (resolveWindow c.offset r o).r1.toNat = r.yEnd - 1 + rowOffset c.offset o := by
  obtain ⟨_, _, _, hoff⟩ := Config.wf_bounds hwf
  obtain ⟨⟨hx, hx'⟩, hy, hy'⟩ := r.valid_iff.mp hr
  have hcol := columnOffset_le c.offset o
  have hrow := rowOffset_le c.offset o
  simp only [resolveWindow, BitVec.toNat_ofNat]
  refine ⟨?_, ?_, ?_, ?_⟩ <;> exact Nat.mod_eq_of_lt (by omega)

/-- Settles O53: the bounds are the numbers of R131, one offset is `OFFSET` and the other 0, and no coordinate of a
valid rectangle is above 4094. -/
theorem windowBoundsAreExact : Obligations.WindowBoundsAreExact := by
  unfold Obligations.WindowBoundsAreExact
  intro c r o hwf hr
  obtain ⟨⟨hx, hx'⟩, hy, hy'⟩ := r.valid_iff.mp hr
  obtain ⟨hc0, hc1, hr0, hr1⟩ := resolveWindow_toNat hwf hr o
  have hcol := columnOffset_le c.offset o
  have hrow := rowOffset_le c.offset o
  refine ⟨?landscape, ?portrait, ?bounds⟩
  case landscape => rintro rfl; simp only [columnOffset, rowOffset] at *; omega
  case portrait => rintro rfl; simp only [columnOffset, rowOffset] at *; omega
  case bounds => omega

/-! ### A window of one pixel -/

theorem resolveWindow_c1_eq_c0 (offset : Nat) {r : Rect} (o : Orientation) (h : r.xEnd = r.xStart + 1) :
    (resolveWindow offset r o).c1 = (resolveWindow offset r o).c0 := by
  simp only [resolveWindow, h, Nat.add_sub_cancel]

theorem resolveWindow_r1_eq_r0 (offset : Nat) {r : Rect} (o : Orientation) (h : r.yEnd = r.yStart + 1) :
    (resolveWindow offset r o).r1 = (resolveWindow offset r o).r0 := by
  simp only [resolveWindow, h, Nat.add_sub_cancel]

/-- Settles O54: the last bound is the first one (R135), so the command sends the same two bytes twice. -/
theorem singlePixelWindow : Obligations.SinglePixelWindow := by
  unfold Obligations.SinglePixelWindow
  intro offset r o
  refine ⟨fun hx => ?columns, fun hy => ?rows⟩
  case columns =>
    have h := resolveWindow_c1_eq_c0 offset o hx
    exact ⟨h, by rw [h, boundBytes]⟩
  case rows =>
    have h := resolveWindow_r1_eq_r0 offset o hy
    exact ⟨h, by rw [h, boundBytes]⟩

end Sys2Proof.Machine
end

section
/-! The pixel codec (R150, R151): the two bytes of a pixel by the fields of its channels, and which channels fill
those fields with ones. -/

namespace Sys2Proof.Machine

/-! ### The bytes by their fields -/

/-- R151: `hi = RRRRRGGG`. -/
theorem enc565Hi_eq_append (r g : Byte) : enc565Hi r g = (r.extractLsb' 3 5 ++ g.extractLsb' 5 3 : BitVec (5 + 3)) := by
  ext i hi
  rw [enc565Hi, BitVec.getElem_append]
  interval_cases i <;> simp

/-- R151: `lo = GGGBBBBB`. -/
theorem enc565Lo_eq_append (g b : Byte) : enc565Lo g b = (g.extractLsb' 2 3 ++ b.extractLsb' 3 5 : BitVec (3 + 5)) := by
  ext i hi
  rw [enc565Lo, BitVec.getElem_append]
  interval_cases i <;> simp

/-- Settles O47: the three low bits of the high byte and the three high bits of the low byte are neighbours in
green, and together they are its six high bits. -/
theorem codecKeepsTheHighBits : Obligations.CodecKeepsTheHighBits := by
  unfold Obligations.CodecKeepsTheHighBits
  intro r g b
  have hgreen : g.extractLsb' 5 3 ++ g.extractLsb' 2 3 = g.extractLsb' 2 6 :=
    BitVec.extractLsb'_append_extractLsb'_eq_extractLsb' rfl
  rw [enc565Hi_eq_append, enc565Lo_eq_append, ← hgreen]
  exact BitVec.append_assoc'.trans (congrArg (· ++ b.extractLsb' 3 5) BitVec.append_assoc)

/-! ### Fields of ones -/

theorem append_eq_allOnes_iff {m n : Nat} (x : BitVec m) (y : BitVec n) :
    x ++ y = BitVec.allOnes (m + n) ↔ x = BitVec.allOnes m ∧ y = BitVec.allOnes n := by
  have hones : BitVec.allOnes (m + n) = BitVec.allOnes m ++ BitVec.allOnes n := by
    ext i hi
    simp [BitVec.getElem_append]
  constructor
  · intro h
    rw [hones] at h
    have hx := congrArg (BitVec.extractLsb' n m) h
    have hy := congrArg (BitVec.extractLsb' 0 n) h
    simp only [BitVec.extractLsb'_append_eq_left] at hx
    simp only [BitVec.extractLsb'_append_eq_right] at hy
    exact ⟨hx, hy⟩
  · rintro ⟨rfl, rfl⟩
    exact hones.symm

theorem extractLsb'_eq_allOnes_iff {w : Nat} (x : BitVec w) (start len : Nat) :
    x.extractLsb' start len = BitVec.allOnes len ↔ x.toNat / 2 ^ start % 2 ^ len = 2 ^ len - 1 := by
  rw [← BitVec.toNat_inj, BitVec.extractLsb'_toNat, BitVec.toNat_allOnes, Nat.shiftRight_eq_div_pow]

theorem topFive_eq_allOnes_iff (x : Byte) : x.extractLsb' 3 5 = BitVec.allOnes 5 ↔ 0xF8 ≤ x.toNat := by
  rw [extractLsb'_eq_allOnes_iff]
  omega

theorem topSix_eq_allOnes_iff (x : Byte) : x.extractLsb' 2 6 = BitVec.allOnes 6 ↔ 0xFC ≤ x.toNat := by
  rw [extractLsb'_eq_allOnes_iff]
  omega

/-- Settles O48: both bytes are `FF` when the 16 bits of R151 are all ones, so when the five, six and five high bits
of the channels are, which is a lower bound on each channel. -/
theorem whiteThresholds : Obligations.WhiteThresholds := by
  unfold Obligations.WhiteThresholds
  refine ⟨by decide, fun r g b => ?_⟩
  calc enc565Hi r g = 0xFF ∧ enc565Lo g b = 0xFF
    _ ↔ enc565Hi r g ++ enc565Lo g b = BitVec.allOnes (8 + 8) := (append_eq_allOnes_iff _ _).symm
    _ ↔ r.extractLsb' 3 5 ++ g.extractLsb' 2 6 ++ b.extractLsb' 3 5 = BitVec.allOnes (5 + 6 + 5) := by
      rw [codecKeepsTheHighBits r g b]
    _ ↔ 0xF8 ≤ r.toNat ∧ 0xFC ≤ g.toNat ∧ 0xF8 ≤ b.toNat := by
      simp only [append_eq_allOnes_iff, topFive_eq_allOnes_iff, topSix_eq_allOnes_iff, and_assoc]

end Sys2Proof.Machine
end

section
/-! The frame of a pixel list (R152), read pixel by pixel. -/

namespace Sys2Proof.Machine

theorem length_encodeFrame (ps : List Pixel) : (encodeFrame ps).length = 2 * ps.length := by
  induction ps with
  | nil => rfl
  | cons p ps ih => simp only [encodeFrame_cons, List.length_cons, ih, Nat.mul_succ]

/-- From byte `2i` on, the frame is the encoding of the pixels from `i` on, so it begins with pixel `i`'s two bytes. -/
theorem drop_encodeFrame_of_getElem? {ps : List Pixel} {i : Nat} {p : Pixel} (h : ps[i]? = some p) :
    (encodeFrame ps).drop (2 * i) =
      enc565Hi (red p) (green p) :: enc565Lo (green p) (blue p) :: encodeFrame (ps.drop (i + 1)) := by
  obtain ⟨hi, rfl⟩ := List.getElem?_eq_some_iff.mp h
  rw [drop_encodeFrame, List.drop_eq_getElem_cons hi, encodeFrame_cons]

/-- Settles O49: bytes `2i` and `2i + 1` are the first two of the frame from byte `2i` on. -/
theorem frameHoldsEachPixelInOrder : Obligations.FrameHoldsEachPixelInOrder := by
  unfold Obligations.FrameHoldsEachPixelInOrder
  intro ps
  refine ⟨length_encodeFrame ps, fun i p h => ?_⟩
  have hdrop := drop_encodeFrame_of_getElem? h
  constructor
  · rw [← Nat.add_zero (2 * i), ← List.getElem?_drop, hdrop, List.getElem?_cons_zero]
  · rw [← List.getElem?_drop, hdrop, List.getElem?_cons_succ, List.getElem?_cons_zero]

end Sys2Proof.Machine
end

section
/-! Counting the events of a trace (R187, R188). A controller command is one transaction for its opcode and one for each
parameter, a data block one for each chunk, and the requests' traces are these pieces in a row. -/

namespace Sys2Proof.Machine

/-! ### The pieces -/

theorem transactionCount_append (a b : List Event) :
    transactionCount (a ++ b) = transactionCount a + transactionCount b := List.countP_append

theorem transactionCount_traceCmd (op : Byte) (ps : List Byte) :
    transactionCount (traceCmd op ps) = 1 + ps.length := by
  have hdata : transactionCount (ps.flatMap traceD) = ps.length := by
    induction ps with
    | nil => rfl
    | cons p ps ih =>
      rw [List.flatMap_cons, transactionCount_append, ih, List.length_cons, Nat.add_comm]
      rfl
  rw [traceCmd, transactionCount_append, hdata]
  rfl

/-- The transactions of a controller command are single bytes (R111, R112). -/
theorem length_of_spi_mem_traceCmd {op : Byte} {ps bs : List Byte} (h : .did (.spi bs) ∈ traceCmd op ps) :
    bs.length = 1 := by
  obtain hop | hps := List.mem_append.mp h
  · obtain rfl : bs = [op] := by simpa [traceC] using hop
    rfl
  · obtain ⟨p, -, hp⟩ := List.mem_flatMap.mp hps
    obtain rfl : bs = [p] := by simpa [traceD] using hp
    rfl

theorem length_traceBlock (c : Nat) (bs : List Byte) : (traceBlock c bs).length = 1 + ceilDiv bs.length c := by
  rw [traceBlock, List.length_cons, List.length_map, length_chunks, Nat.add_comm]

theorem transactionCount_traceBlock (c : Nat) (bs : List Byte) :
    transactionCount (traceBlock c bs) = ceilDiv bs.length c := by
  have hchunk : ∀ e ∈ (chunks c bs).map (fun ch => Event.did (.spi ch)), e.isTransaction = true := by
    intro e he
    obtain ⟨ch, -, rfl⟩ := List.mem_map.mp he
    rfl
  rw [traceBlock, transactionCount, List.countP_cons_of_neg Bool.false_ne_true, List.countP_eq_length.mpr hchunk,
    List.length_map, length_chunks]

/-- Only the write before the chunks is one of DC (R113). -/
theorem count_dcHigh_traceBlock (c : Nat) (bs : List Byte) :
    (traceBlock c bs).count (.did (.pin .dc .high)) = 1 := by
  have hchunk : .did (.pin .dc .high) ∉ (chunks c bs).map (fun ch => Event.did (.spi ch)) := by simp
  rw [traceBlock, List.count_cons_self, List.count_eq_zero.mpr hchunk]

/-- R134: two bounds are four parameters, and memory write has none. -/
theorem length_traceWindow (c : Config) (r : Rect) (o : Orientation) : (traceWindow c r o).length = 22 := rfl

theorem transactionCount_traceWindow (c : Config) (r : Rect) (o : Orientation) :
    transactionCount (traceWindow c r o) = 11 := rfl

/-! ### The drawing requests -/

theorem length_readPixels (cs : List PixCell) (d n : Nat) : (readPixels cs d n).length = n := by
  induction n generalizing cs d with
  | zero => cases cs <;> rfl
  | succ n ih =>
    cases cs with
    | nil => exact congrArg Nat.succ (ih _ _)
    | cons c cs => cases c <;> exact congrArg Nat.succ (ih _ _)

theorem length_frameOf (s : State) (cols rows : Dim) :
    (frameOf s cols rows).length = 2 * cols.toNat * rows.toNat := by
  rw [frameOf, length_encodeFrame, length_readPixels, Nat.mul_assoc]

/-- Every drawing request ends in a window and the block that fills it. -/
theorem length_window_block (c : Config) (r : Rect) (o : Orientation) (bs : List Byte) :
    (traceWindow c r o ++ traceBlock c.chunk bs).length = 23 + ceilDiv bs.length c.chunk := by
  rw [List.length_append, length_traceWindow, length_traceBlock]
  omega

theorem transactionCount_window_block (c : Config) (r : Rect) (o : Orientation) (bs : List Byte) :
    transactionCount (traceWindow c r o ++ traceBlock c.chunk bs) = 11 + ceilDiv bs.length c.chunk := by
  rw [transactionCount_append, transactionCount_traceWindow, transactionCount_traceBlock]

/-- BLIT sends the MAC command with its one parameter first (R182, R183). -/
theorem length_mac_window_block (mac : Byte) (c : Config) (r : Rect) (o : Orientation) (bs : List Byte) :
    (traceCmd 0x36 [mac] ++ traceWindow c r o ++ traceBlock c.chunk bs).length =
      27 + ceilDiv bs.length c.chunk := by
  rw [List.append_assoc, List.length_append, length_traceCmd, length_window_block, List.length_singleton]
  omega

theorem transactionCount_mac_window_block (mac : Byte) (c : Config) (r : Rect) (o : Orientation) (bs : List Byte) :
    transactionCount (traceCmd 0x36 [mac] ++ traceWindow c r o ++ traceBlock c.chunk bs) =
      13 + ceilDiv bs.length c.chunk := by
  rw [List.append_assoc, transactionCount_append, transactionCount_traceCmd, transactionCount_window_block,
    List.length_singleton]
  omega

/-- Settles O24: CLEAR is a window and its block, BLIT the MAC command before them, and the block's length is that
of the buffer. -/
theorem drawingTraceCounts : Obligations.DrawingTraceCounts := by
  unfold Obligations.DrawingTraceCounts
  intro s cols rows
  have hclear : (List.replicate (2 * s.cfgW.toNat * s.cfgH.toNat) (0xFF : Byte)).length =
      2 * s.cfgW.toNat * s.cfgH.toNat := List.length_replicate
  have hframe := length_frameOf s cols rows
  refine ⟨?_, ?_, ?_, ?_, ?_, ?_, count_dcHigh_traceBlock s.static.chunk⟩
  · rw [traceClear, length_window_block, hclear]
  · rw [traceClear, transactionCount_window_block, hclear]
  · rw [traceBlitA, length_mac_window_block, hframe]
  · rw [traceBlitA, transactionCount_mac_window_block, hframe]
  · rw [traceBlitB, length_mac_window_block, hframe]
  · rw [traceBlitB, transactionCount_mac_window_block, hframe]

end Sys2Proof.Machine
end

section
/-! INIT (R173, R174, R187): its trace command by command, what that adds up to, and the state it leaves. -/

namespace Sys2Proof.Machine

/-! ### The init sequence -/

/-- R174, R175: each of the 17 commands with its own table; the two gamma tables are the only ones of fixed length,
and the last two commands have none. -/
theorem initCommands_eq (t : InitParams) :
    initOps.flatMap (fun op => traceCmd (initOpcode op) (initBytes t op)) =
      traceCmd 0x36 (t.p36.head :: t.p36.tail) ++ traceCmd 0x3A (t.p3A.head :: t.p3A.tail) ++
        traceCmd 0xB2 (t.pB2.head :: t.pB2.tail) ++ traceCmd 0xB7 (t.pB7.head :: t.pB7.tail) ++
        traceCmd 0xBB (t.pBB.head :: t.pBB.tail) ++ traceCmd 0xC0 (t.pC0.head :: t.pC0.tail) ++
        traceCmd 0xC2 (t.pC2.head :: t.pC2.tail) ++ traceCmd 0xC3 (t.pC3.head :: t.pC3.tail) ++
        traceCmd 0xC4 (t.pC4.head :: t.pC4.tail) ++ traceCmd 0xC6 (t.pC6.head :: t.pC6.tail) ++
        traceCmd 0xD0 (t.pD0.head :: t.pD0.tail) ++ traceCmd 0xD6 (t.pD6.head :: t.pD6.tail) ++
        traceCmd 0xE0 t.pE0.toList ++ traceCmd 0xE1 t.pE1.toList ++
        traceCmd 0xE4 (t.pE4.head :: t.pE4.tail) ++ traceCmd 0x21 [] ++ traceCmd 0x11 [] := by
  simp only [initOps, List.flatMap_cons, List.flatMap_nil, List.append_nil, List.append_assoc, initOpcode,
    initBytes, listOf]

/-- R187 `Σ n_k`: how many parameter bytes the init sequence has. -/
def initParamCount (t : InitParams) : Nat := (initOps.map fun op => (initBytes t op).length).sum

/-- R175: 14 bytes in each gamma table and at least one in each of the thirteen others. -/
theorem le_initParamCount (t : InitParams) : 41 ≤ initParamCount t := by
  simp only [initParamCount, initOps, List.map_cons, List.map_nil, List.sum_cons, List.sum_nil, initBytes, listOf,
    List.length_cons, List.length_nil, Vector.length_toList]
  omega

theorem length_initCommands (t : InitParams) :
    (initOps.flatMap fun op => traceCmd (initOpcode op) (initBytes t op)).length = 34 + 2 * initParamCount t := by
  simp only [List.length_flatMap, length_traceCmd]
  rw [List.sum_map_add, List.sum_map_mul_left]
  rfl

theorem transactionCount_initCommands (t : InitParams) :
    transactionCount (initOps.flatMap fun op => traceCmd (initOpcode op) (initBytes t op)) =
      17 + initParamCount t := by
  have hcmd : List.countP Event.isTransaction ∘ (fun op => traceCmd (initOpcode op) (initBytes t op)) =
      fun op => 1 + (initBytes t op).length := funext fun op => transactionCount_traceCmd _ _
  rw [transactionCount, List.countP_flatMap, hcmd, List.sum_map_add]
  rfl

/-! ### The whole trace -/

theorem length_traceInit (c : Config) : (traceInit c).length = 43 + 2 * initParamCount c.initParams := by
  have hends : (traceHardReset c).length = 6 ∧ (traceC 0x29).length = 2 := ⟨rfl, rfl⟩
  simp only [traceInit, List.length_append, length_initCommands, List.length_singleton, hends]
  omega

theorem transactionCount_traceInit (c : Config) :
    transactionCount (traceInit c) = 18 + initParamCount c.initParams := by
  have hends : transactionCount (traceHardReset c) = 0 ∧ transactionCount [.waited c.tWakeMs] = 0 ∧
      transactionCount (traceC 0x29) = 1 := ⟨rfl, rfl, rfl⟩
  simp only [traceInit, transactionCount_append, transactionCount_initCommands, hends]
  omega

theorem length_of_spi_mem_traceInit {c : Config} {bs : List Byte} (h : .did (.spi bs) ∈ traceInit c) :
    bs.length = 1 := by
  simp only [traceInit, List.mem_append] at h
  obtain ((hreset | hcmds) | hwait) | hon := h
  · simp [traceHardReset] at hreset
  · obtain ⟨op, -, hop⟩ := List.mem_flatMap.mp hcmds
    exact length_of_spi_mem_traceCmd hop
  · simp at hwait
  · exact length_of_spi_mem_traceCmd (op := 0x29) (ps := []) hon

/-! ### The state it leaves -/

theorem exec_init_calm {s : State} {width height : Dim} (o : Orientation) (hw : width ≠ 0) (hh : height ≠ 0)
    (hc : s.calm (traceInit s.static)) :
    exec (.init o width height) s = .next { s.answered .ok (traceInit s.static) with
      lc := .ready, cfgOrient := o, cfgW := width, cfgH := height, rstLvl := .high, dcLvl := .low } := by
  have hz : ¬ (width = 0 ∨ height = 0) := not_or.mpr ⟨hw, hh⟩
  have htrace : fullTrace (.init o width height) s = traceInit s.static := fullTrace_init hz
  obtain ⟨hrst, hdc⟩ := lastLevel_traceInit s
  rw [exec_calm _ s _ rfl (programOf_init hz) (htrace ▸ hc), htrace, hrst, hdc]
  rfl

/-- Settles O15: the state by `exec_init_calm`, the trace by its command list, the counts by those of the commands. -/
theorem initSendsTheInitSequence : Obligations.InitSendsTheInitSequence := by
  unfold Obligations.InitSendsTheInitSequence
  intro s o width height hw hh hc
  refine ⟨exec_init_calm o hw hh hc, ?commands, rfl, length_traceInit s.static, le_initParamCount s.static.initParams,
    transactionCount_traceInit s.static, fun bs => length_of_spi_mem_traceInit⟩
  case commands =>
    rw [traceInit, initCommands_eq, List.append_assoc _ _ (traceC 0x29)]
    rfl

end Sys2Proof.Machine
end

section
/-! An illegal word (R184, R256). -/

namespace Sys2Proof.Machine

theorem step_request_illegal {s : State} {p : Presented} {rest : List Stimulus} {r : DecodeReject}
    (hidle : s.busy = false) (hport : s.port = .request p :: rest) (hdec : decodeRequest p.word = .error r) :
    step s = .next (illegalRequest (accept p rest s)) := by
  simp only [step, hidle, Bool.false_eq_true, if_false, boundaryStep, hport, hdec]

theorem illegalRequest_uncut {s : State} (h : s.cut ≠ some 0) :
    illegalRequest s = { s with
      busy := false, seq := [], buf := [], pix := [], answers := [], cut := none
      responses := s.responses ++ [.illegalRequest] } := by
  have hcatch (t : State) : catchError false .illegalRequest t = t := if_neg (by decide)
  simp only [illegalRequest, execute, finish, hcatch]
  rw [respond_uncut (by rwa [withBusy_cut])]
  rfl

/-- Settles O10: the word's pixel source and environment are taken with it and given up unread at its response. -/
theorem illegalWordAnswersIllegalRequest : Obligations.IllegalWordAnswersIllegalRequest := by
  unfold Obligations.IllegalWordAnswersIllegalRequest
  intro s p rest r hidle hport hdec hcut
  have hnow : (accept p rest s).cut ≠ some 0 := fun h0 => Nat.lt_irrefl 0 (hcut 0 h0)
  rw [step_request_illegal hidle hport hdec, illegalRequest_uncut hnow, ← hidle]
  rfl

end Sys2Proof.Machine
end

section
/-! The brightness clamp (R178). -/

namespace Sys2Proof.Machine

/-- R28: 7 bits hold every value of the clamp. -/
theorem clampPercent_toNat (p : Int) :
    ((clampPercent p).toNat : Int) = if p < 0 then 0 else if p > 100 then 100 else p := by
  unfold clampPercent
  split
  · rfl
  split
  · rfl
  · rw [BitVec.toNat_ofNat]
    omega

/-- Settles O56: 0 and 100 lie within 16 bits, so saturating first moves no percent across a bound of the clamp. -/
theorem clampSaturates : Obligations.ClampSaturates := by
  unfold Obligations.ClampSaturates
  intro p
  refine ⟨clampPercent_toNat p, fun hz => ?duty, ?saturated⟩
  case duty => rw [← clampPercent_toNat, Int.cast_natCast, PwmOut.duty]
  case saturated =>
    apply BitVec.eq_of_toNat_eq
    apply Int.ofNat_inj.mp
    rw [clampPercent_toNat, clampPercent_toNat]
    omega

end Sys2Proof.Machine
end

section
/-! A window has as many columns and rows as the rectangle it was resolved from (R131): the offset moves both bounds
of a pair alike. A drawing request's rectangle starts at the origin (R137), so its window has the panel's pixels,
and the block after 0x2C two bytes for each (R232). -/

namespace Sys2Proof.Machine

theorem resolveWindow_size {c : Config} {r : Rect} (hwf : c.wf = true) (hr : r.valid = true) (o : Orientation) :
    (resolveWindow c.offset r o).c1.toNat + 1 - (resolveWindow c.offset r o).c0.toNat = r.xEnd - r.xStart ∧
    (resolveWindow c.offset r o).r1.toNat + 1 - (resolveWindow c.offset r o).r0.toNat = r.yEnd - r.yStart := by
  obtain ⟨hc0, hc1, hr0, hr1⟩ := resolveWindow_toNat hwf hr o
  obtain ⟨⟨hx, _⟩, hy, _⟩ := r.valid_iff.mp hr
  omega

/-- R27: 12-bit dimensions are at most 4095, so the rectangle they span is valid as soon as none is zero. -/
theorem Rect.valid_of_dims {w h : Dim} (hw : w ≠ 0) (hh : h ≠ 0) :
    (⟨0, 0, w.toNat, h.toNat⟩ : Rect).valid = true := by
  have hpos {d : Dim} (hd : d ≠ 0) : 0 < d.toNat := Nat.pos_of_ne_zero (BitVec.toNat_ne.mp hd)
  exact (Rect.valid_iff _).mpr ⟨⟨hpos hw, Nat.le_of_lt_succ w.isLt⟩, hpos hh, Nat.le_of_lt_succ h.isLt⟩

/-- Settles O55: each of the three windows has the pixels of its dimensions; R137's swap for portrait leaves the
product as it was. -/
theorem payloadFillsTheWindow : Obligations.PayloadFillsTheWindow := by
  unfold Obligations.PayloadFillsTheWindow
  intro s cols rows hwf hw hh area
  have harea {w h : Dim} (hw : w ≠ 0) (hh : h ≠ 0) (o : Orientation) :
      area (resolveWindow s.static.offset ⟨0, 0, w.toNat, h.toNat⟩ o) = w.toNat * h.toNat := by
    obtain ⟨hcols, hrows⟩ := resolveWindow_size hwf (Rect.valid_of_dims hw hh) o
    exact congrArg₂ (· * ·) hcols hrows
  refine ⟨?clear, ?pathA, ?pathB⟩
  case clear =>
    rw [List.length_replicate, Nat.mul_assoc]
    cases s.cfgOrient with
    | landscape => rw [fullRect, harea hw hh]
    | portrait => rw [fullRect, harea hh hw, Nat.mul_comm s.cfgH.toNat]
  case pathA =>
    rintro rfl rfl
    rw [length_frameOf, harea hw hh, Nat.mul_assoc]
  case pathB =>
    rintro rfl rfl
    rw [length_frameOf, harea hh hw, Nat.mul_assoc]

end Sys2Proof.Machine
end

section
/-! Requests that a check ends (R254, R255): the program is that error, so `exec_error` gives the whole outcome. -/

namespace Sys2Proof.Machine

/-- Settles O20: outside READY the lifecycle check comes before anything else, the shape included (R257). -/
theorem drawingOutsideReadyIsPremature : Obligations.DrawingOutsideReadyIsPremature := by
  unfold Obligations.DrawingOutsideReadyIsPremature
  intro s cols rows hlc hcut
  exact ⟨exec_error .clear s _ rfl (programOf_clear_not hlc) hcut,
    exec_error (.blit cols rows) s _ rfl (programOf_blit_not hlc) hcut⟩

theorem selectPath_eq_none {cfgW cfgH cols rows : Dim} (hA : ¬ (cols = cfgW ∧ rows = cfgH))
    (hB : ¬ (cols = cfgH ∧ rows = cfgW)) : selectPath cfgW cfgH cols rows = none := by
  rw [selectPath, if_neg hA, if_neg hB]

/-- Settles O23: with no path selected the program is the shape error, and no item of it encodes a pixel. -/
theorem blitRejectsAWrongShape : Obligations.BlitRejectsAWrongShape := by
  unfold Obligations.BlitRejectsAWrongShape
  intro s cols rows hlc hA hB hcut
  have hprogram : programOf (.blit cols rows) s = .error .invalidBufferShapeError := by
    rw [programOf_blit hlc, selectPath_eq_none hA hB]
  exact exec_error (.blit cols rows) s _ rfl hprogram hcut

end Sys2Proof.Machine
end

section
/-! The way to READY (R260). The idle block's lifecycle is written by block reset, by the error path of R258 and by
the programs of RESET and INIT; of these only INIT's program, performed to its end, writes READY. -/

namespace Sys2Proof.Machine

/-! ### One step of the idle block -/

/-- Everything the idle block can do (R170, R184, R280, R281): wait, be reset, refuse an illegal word, or run a
request. -/
theorem step_idle_cases {s t : State} (hidle : s.busy = false) (h : step s = .next t) :
    (s.port = [] ∧ t = s) ∨
    (∃ rest, s.port = .blockReset :: rest ∧ t = blockReset { s with port := rest }) ∨
    (∃ p rest r, s.port = .request p :: rest ∧ decodeRequest p.word = .error r ∧
      t = illegalRequest (accept p rest s)) ∨
    (∃ p rest i, s.port = .request p :: rest ∧ decodeRequest p.word = .ok i ∧
      exec i (accept p rest s) = .next t) := by
  simp only [step, hidle, Bool.false_eq_true, if_false, boundaryStep] at h
  rcases hport : s.port with _ | ⟨p | _, rest⟩ <;> rw [hport] at h
  · exact .inl ⟨rfl, (Host.Outcome.next.inj h).symm⟩
  · rcases hdec : decodeRequest p.word with r | i <;> simp only [hdec] at h
    · exact .inr (.inr (.inl ⟨p, rest, r, rfl, hdec, (Host.Outcome.next.inj h).symm⟩))
    · exact .inr (.inr (.inr ⟨p, rest, i, rfl, hdec, h⟩))
  · exact .inr (.inl ⟨rest, rfl, (Host.Outcome.next.inj h).symm⟩)

theorem illegalRequest_eq_respond (s : State) :
    illegalRequest s = respond .illegalRequest (s.withBusy true) := rfl

/-! ### What reaches READY -/

/-- A response writes no lifecycle, and block reset in its place gives UNRESET. -/
theorem respond_ready {e : Status} {s : State} (h : (respond e s).lc = .ready) :
    s.lc = .ready ∧ (respond e s).responses = s.responses ++ [e] := by
  by_cases hcut : s.cut = some 0
  · rw [respond_cut hcut, blockReset_lc] at h
    cases h
  · rw [respond_uncut hcut] at h ⊢
    exact ⟨h, rfl⟩

/-- Of the programs that run outside READY, only INIT's leaves READY (R171, R173, R177). -/
theorem programRegs_ready {i : Instr} {s : State} {items : List SeqOp} (hr : isRequest i = true)
    (hlc : s.lc ≠ .ready) (hp : programOf i s = .ok items) (h : (programRegs i s).lc = .ready) :
    ∃ o width height, i = .init o width height ∧ width ≠ 0 ∧ height ≠ 0 := by
  cases i <;> try exact absurd hr Bool.false_ne_true
  case reset => cases h
  case init o width height =>
    by_cases hz : width = 0 ∨ height = 0
    · rw [programOf_init_zero hz] at hp
      cases hp
    · exact ⟨o, width, height, rfl, not_or.mp hz⟩
  case bright pct => exact absurd h hlc
  case clear =>
    rw [programOf_clear_not hlc] at hp
    cases hp
  case blit cols rows =>
    rw [programOf_blit_not hlc] at hp
    cases hp

/-- R258: a failed action moves the lifecycle to FAILED, but for BRIGHT's, which is its first and leaves it. -/
theorem catchError_lc_ne_ready {i : Instr} {s : State} {before rest r : List SeqOp} {item : SeqOp} {evs : List Event}
    (hr : isRequest i = true) (hlc : s.lc ≠ .ready) (hp : programOf i s = .ok (before ++ item :: rest))
    (hm : itemMicros item (itemsNext before (s.withBusy true)) ≠ []) :
    (catchError (marksOf i) .transportError
      (((itemsNext before (s.withBusy true)).after evs).withSeq r)).lc ≠ .ready := by
  rw [catchError_lc]
  cases hmarks : marksOf i with
  | true => simp
  | false =>
    obtain rfl : before = [] := program_stopped_bright hr hmarks hp hm
    simpa [itemsNext] using hlc

theorem exec_ready {i : Instr} {s t : State} (hr : isRequest i = true) (hlc : s.lc ≠ .ready)
    (h : exec i s = .next t) (ht : t.lc = .ready) :
    (∃ o width height, i = .init o width height ∧ width ≠ 0 ∧ height ≠ 0) ∧ t.responses = s.responses ++ [.ok] := by
  rcases exec_request_cases i s t hr h with ⟨e, -, rfl⟩ | ⟨items, hp, hrun⟩
  · exact absurd (respond_ready ht).1 hlc
  rcases hrun with ⟨r, -, rfl⟩ | ⟨before, item, rest, pre, a, post, rfl, hm, -, -, -, rfl⟩ |
    ⟨before, item, rest, pre, m, post, -, -, -, -, rfl⟩
  · obtain ⟨hend, hresp⟩ := respond_ready ht
    have hregs : (programRegs i (s.withBusy true)).responses = s.responses := by cases i <;> rfl
    refine ⟨programRegs_ready (s := s.withBusy true) hr hlc (by rwa [programOf_withBusy]) hend, ?_⟩
    rw [hresp, withSeq_responses, programEnd, after_responses, hregs]
  · have hne : itemMicros item (itemsNext before (s.withBusy true)) ≠ [] := by simp [hm]
    exact absurd (respond_ready ht).1 (catchError_lc_ne_ready hr hlc hp hne)
  · cases ht

/-- Settles O46: an illegal word only responds, and a request that reaches READY is an INIT by `exec_ready`. -/
theorem onlyInitReachesReady : Obligations.OnlyInitReachesReady := by
  unfold Obligations.OnlyInitReachesReady
  intro s t hidle hlc hstep ht
  rcases step_idle_cases hidle hstep with ⟨-, rfl⟩ | ⟨rest, -, rfl⟩ | ⟨p, rest, r, -, -, rfl⟩ |
    ⟨p, rest, i, hport, hdec, hexec⟩
  · exact absurd ht hlc
  · cases ht
  · rw [illegalRequest_eq_respond] at ht
    exact absurd (respond_ready ht).1 hlc
  · obtain ⟨⟨o, width, height, rfl, hw, hh⟩, hresp⟩ :=
      exec_ready (s := accept p rest s) (decodeRequest_isRequest _ _ hdec) hlc hexec ht
    exact ⟨p, rest, o, width, height, hport, hdec, hw, hh, hresp⟩

end Sys2Proof.Machine
end

section
/-! The idle block with nothing presented (R281). -/

namespace Sys2Proof.Machine

theorem step_of_not_busy {s : State} (hidle : s.busy = false) : step s = boundaryStep s :=
  if_neg (Bool.eq_false_iff.mp hidle)

theorem boundaryStep_of_port_nil {s : State} (hport : s.port = []) : boundaryStep s = .next s := by
  rw [boundaryStep, hport]

/-- Settles O8: the idle block's step is the boundary's, and with the port empty the boundary takes nothing. -/
theorem idleBlockWaits : Obligations.IdleBlockWaits := by
  unfold Obligations.IdleBlockWaits
  intro s hidle hport
  rw [step_of_not_busy hidle, boundaryStep_of_port_nil hport]

end Sys2Proof.Machine
end

section
/-! The two encodings (R80): an encoding decodes to an instruction exactly when it is that instruction's own and the
instruction is well formed. A request's word is read by arithmetic, one field above the other; a controller command
by its opcode and the number of its parameters. -/

namespace Sys2Proof.Machine

/-! ### Request words -/

theorem toNat_append_eq {m n : Nat} (x : BitVec m) (y : BitVec n) : (x ++ y).toNat = x.toNat * 2 ^ n + y.toNat := by
  rw [BitVec.toNat_append, ← Nat.shiftLeft_add_eq_or_of_lt y.isLt, Nat.shiftLeft_eq]

theorem orientOfBit_orientBit (o : Orientation) : orientOfBit (orientBit o) = o := by
  cases o <;> rfl

theorem orientBit_orientOfBit (b : BitVec 1) : orientBit (orientOfBit b) = b := by
  revert b
  decide

theorem initWord_toNat (b : BitVec 1) (width height : Dim) :
    (0x2#4 ++ 0#3 ++ b ++ width ++ height).toNat =
      2 * 2 ^ 28 + b.toNat * 2 ^ 24 + width.toNat * 2 ^ 12 + height.toNat := by
  simp only [toNat_append_eq, BitVec.toNat_ofNat]
  omega

theorem brightWord_toNat (pct : Half) : (0x3#4 ++ 0#12 ++ pct).toNat = 3 * 2 ^ 28 + pct.toNat := by
  simp only [toNat_append_eq, BitVec.toNat_ofNat]
  omega

theorem blitWord_toNat (cols rows : Dim) :
    (0x5#4 ++ 0#4 ++ cols ++ rows).toNat = 5 * 2 ^ 28 + cols.toNat * 2 ^ 12 + rows.toNat := by
  simp only [toNat_append_eq, BitVec.toNat_ofNat]
  omega

theorem toNat_extractLsb'_eq_div_mod (w : ReqWord) (start len : Nat) :
    (w.extractLsb' start len).toNat = w.toNat / 2 ^ start % 2 ^ len := by
  rw [BitVec.extractLsb'_toNat, Nat.shiftRight_eq_div_pow]

/-- A field of the word whose number is known. -/
theorem extractLsb'_eq_of_toNat {w : ReqWord} {start len : Nat} {x : BitVec len}
    (h : w.toNat / 2 ^ start % 2 ^ len = x.toNat) : w.extractLsb' start len = x :=
  BitVec.eq_of_toNat_eq (by rw [toNat_extractLsb'_eq_div_mod, h])

/-- R83 to R87: the decoder reads every operand bit that the encoder wrote. -/
theorem decode_encode_of_isRequest {i : Instr} (hr : isRequest i = true) : decode (encode i) = .ok i := by
  cases i <;> try exact absurd hr Bool.false_ne_true
  case reset => rfl
  case clear => rfl
  case init o width height =>
    have hw := initWord_toNat (orientBit o) width height
    have hwidth := width.isLt
    have hheight := height.isLt
    have hbit := (orientBit o).isLt
    rw [encode, decode, decodeRequest_init (by omega), if_pos (by omega),
      extractLsb'_eq_of_toNat (x := orientBit o) (by omega), extractLsb'_eq_of_toNat (x := width) (by omega),
      extractLsb'_eq_of_toNat (x := height) (by omega), orientOfBit_orientBit]
  case bright pct =>
    have hw := brightWord_toNat pct
    have hpct := pct.isLt
    rw [encode, decode, decodeRequest_bright (by omega), if_pos (by omega),
      extractLsb'_eq_of_toNat (x := pct) (by omega)]
  case blit cols rows =>
    have hw := blitWord_toNat cols rows
    have hcols := cols.isLt
    have hrows := rows.isLt
    rw [encode, decode, decodeRequest_blit (by omega), if_pos (by omega),
      extractLsb'_eq_of_toNat (x := cols) (by omega), extractLsb'_eq_of_toNat (x := rows) (by omega)]

/-- A field whose check passed: how the decoder of both levels accepts. -/
theorem ite_ok_eq_ok_iff {c : Prop} [Decidable c] {x i : Instr} {r : DecodeReject} :
    (if c then Except.ok x else .error r) = .ok i ↔ c ∧ x = i := by
  split <;> simp_all

/-- The operation of an accepted word is one of the five (R90). -/
theorem operation_of_decodeRequest_ok {w : ReqWord} {i : Instr} (h : decodeRequest w = .ok i) :
    1 ≤ w.toNat / 2 ^ 28 ∧ w.toNat / 2 ^ 28 ≤ 5 := by
  by_contra hop
  rw [decodeRequest_undefined (by omega)] at h
  cases h

/-- R81, R93: with the reserved bits clear, the fields are all there is of a word. -/
theorem encode_of_decodeRequest {w : ReqWord} {i : Instr} (h : decodeRequest w = .ok i) : encode i = .request w := by
  obtain ⟨hlow, hhigh⟩ := operation_of_decodeRequest_ok h
  obtain hop | hop | hop | hop | hop : w.toNat / 2 ^ 28 = 1 ∨ w.toNat / 2 ^ 28 = 2 ∨ w.toNat / 2 ^ 28 = 3 ∨
    w.toNat / 2 ^ 28 = 4 ∨ w.toNat / 2 ^ 28 = 5 := by omega
  · rw [decodeRequest_reset hop, ite_ok_eq_ok_iff] at h
    obtain ⟨hres, rfl⟩ := h
    refine congrArg Encoded.request (BitVec.eq_of_toNat_eq (show 1 * 2 ^ 28 = w.toNat from ?_))
    omega
  · rw [decodeRequest_init hop, ite_ok_eq_ok_iff] at h
    obtain ⟨hres, rfl⟩ := h
    refine congrArg Encoded.request (BitVec.eq_of_toNat_eq ?_)
    simp only [initWord_toNat, orientBit_orientOfBit, toNat_extractLsb'_eq_div_mod]
    omega
  · rw [decodeRequest_bright hop, ite_ok_eq_ok_iff] at h
    obtain ⟨hres, rfl⟩ := h
    refine congrArg Encoded.request (BitVec.eq_of_toNat_eq ?_)
    simp only [brightWord_toNat, toNat_extractLsb'_eq_div_mod]
    omega
  · rw [decodeRequest_clear hop, ite_ok_eq_ok_iff] at h
    obtain ⟨hres, rfl⟩ := h
    refine congrArg Encoded.request (BitVec.eq_of_toNat_eq (show 4 * 2 ^ 28 = w.toNat from ?_))
    omega
  · rw [decodeRequest_blit hop, ite_ok_eq_ok_iff] at h
    obtain ⟨hres, rfl⟩ := h
    refine congrArg Encoded.request (BitVec.eq_of_toNat_eq ?_)
    simp only [blitWord_toNat, toNat_extractLsb'_eq_div_mod]
    omega

/-- A request has no operand that its fields do not admit (R91). -/
theorem wf_of_isRequest {i : Instr} (hr : isRequest i = true) : i.wf = true := by
  cases i <;> try exact absurd hr Bool.false_ne_true
  all_goals rfl

/-! ### Controller commands -/

theorem hiByte_append_loByte (v : Half) : hiByte v ++ loByte v = v := by
  simp only [hiByte, loByte, BitVec.extractLsb'_append_extractLsb'_eq_extractLsb', Nat.zero_add,
    BitVec.extractLsb'_eq_self]

theorem boundBytes_append (a b c d : Byte) : boundBytes (a ++ b) (c ++ d) = [a, b, c, d] := by
  simp only [boundBytes, hiByte, loByte, BitVec.extractLsb'_append_eq_left, BitVec.extractLsb'_append_eq_right]

theorem someParams_eq_ok_iff {mk : List Byte → Instr} {ps : List Byte} {i : Instr} :
    someParams mk ps = .ok i ↔ 1 ≤ ps.length ∧ mk ps = i := ite_ok_eq_ok_iff

theorem gammaParams_eq_ok_iff {mk : List Byte → Instr} {ps : List Byte} {i : Instr} :
    gammaParams mk ps = .ok i ↔ ps.length = 14 ∧ mk ps = i := ite_ok_eq_ok_iff

theorem noParams_eq_ok_iff {c i : Instr} {ps : List Byte} : noParams c ps = .ok i ↔ ps = [] ∧ c = i :=
  ite_ok_eq_ok_iff

theorem boundParams_eq_ok_iff {mk : Half → Half → Instr} {ps : List Byte} {i : Instr} :
    boundParams mk ps = .ok i ↔ ∃ v w, ps = boundBytes v w ∧ mk v w = i := by
  constructor
  · intro h
    unfold boundParams at h
    split at h
    next a b c d => exact ⟨_, _, (boundBytes_append a b c d).symm, Except.ok.inj h⟩
    next => cases h
  · rintro ⟨v, w, rfl, rfl⟩
    rw [boundBytes, boundParams, hiByte_append_loByte, hiByte_append_loByte]

/-- R94 to R96: a command's own bytes are read as that command, if its parameters are as many as R175 says. -/
theorem decode_encode_of_command {i : Instr} (hr : isRequest i = false) (hwf : i.wf = true) :
    decode (encode i) = .ok i := by
  cases i
  case reset | init | bright | clear | blit => cases hr
  case cmd36 | cmd3A | cmdB2 | cmdB7 | cmdBB | cmdC0 | cmdC2 | cmdC3 | cmdC4 | cmdC6 | cmdD0 | cmdD6 | cmdE4 =>
    exact someParams_eq_ok_iff.mpr ⟨of_decide_eq_true hwf, rfl⟩
  case cmdE0 | cmdE1 => exact gammaParams_eq_ok_iff.mpr ⟨of_decide_eq_true hwf, rfl⟩
  case cmd21 | cmd11 | cmd29 | cmd2C => rfl
  case cmd2A | cmd2B => exact boundParams_eq_ok_iff.mpr ⟨_, _, rfl, rfl⟩

/-- What the branches of `decodeWire` have in common. -/
def Reads (op : Byte) (ps : List Byte) (r : Except DecodeReject Instr) : Prop :=
  ∀ i, r = .ok i → i.wf = true ∧ encode i = .wire op ps

theorem someParams_reads {mk : List Byte → Instr} {op : Byte} {ps : List Byte}
    (hwf : (mk ps).wf = decide (1 ≤ ps.length)) (henc : encode (mk ps) = .wire op ps) :
    Reads op ps (someParams mk ps) := by
  intro i h
  obtain ⟨hlen, rfl⟩ := someParams_eq_ok_iff.mp h
  exact ⟨hwf.trans (decide_eq_true hlen), henc⟩

theorem gammaParams_reads {mk : List Byte → Instr} {op : Byte} {ps : List Byte}
    (hwf : (mk ps).wf = decide (ps.length = 14)) (henc : encode (mk ps) = .wire op ps) :
    Reads op ps (gammaParams mk ps) := by
  intro i h
  obtain ⟨hlen, rfl⟩ := gammaParams_eq_ok_iff.mp h
  exact ⟨hwf.trans (decide_eq_true hlen), henc⟩

theorem noParams_reads {c : Instr} {op : Byte} {ps : List Byte}
    (hwf : c.wf = true) (henc : encode c = .wire op []) : Reads op ps (noParams c ps) := by
  intro i h
  obtain ⟨rfl, rfl⟩ := noParams_eq_ok_iff.mp h
  exact ⟨hwf, henc⟩

theorem boundParams_reads {mk : Half → Half → Instr} {op : Byte} {ps : List Byte}
    (hwf : ∀ v w, (mk v w).wf = true) (henc : ∀ v w, encode (mk v w) = .wire op (boundBytes v w)) :
    Reads op ps (boundParams mk ps) := by
  intro i h
  obtain ⟨v, w, rfl, rfl⟩ := boundParams_eq_ok_iff.mp h
  exact ⟨hwf v w, henc v w⟩

/-- R96: the command that wire bytes are read as has these bytes. -/
theorem decodeWire_reads (op : Byte) (ps : List Byte) : Reads op ps (decodeWire op ps) := by
  unfold decodeWire
  iterate 12 refine iteInduction (fun h => h ▸ someParams_reads rfl rfl) fun _ => ?_
  iterate 2 refine iteInduction (fun h => h ▸ gammaParams_reads rfl rfl) fun _ => ?_
  refine iteInduction (fun h => h ▸ someParams_reads rfl rfl) fun _ => ?_
  iterate 3 refine iteInduction (fun h => h ▸ noParams_reads rfl rfl) fun _ => ?_
  iterate 2 refine iteInduction (fun h => h ▸ boundParams_reads (fun _ _ => rfl) fun _ _ => rfl) fun _ => ?_
  refine iteInduction (fun h => h ▸ noParams_reads rfl rfl) fun _ i h => ?_
  cases h

/-! ### Both levels -/

/-- Settles O1: requests field by field, controller commands by their opcode and parameter count. -/
theorem decodeOfEncodeIsTheInstruction : Obligations.DecodeOfEncodeIsTheInstruction := by
  unfold Obligations.DecodeOfEncodeIsTheInstruction
  intro i hwf
  cases hr : isRequest i with
  | true => exact decode_encode_of_isRequest hr
  | false => exact decode_encode_of_command hr hwf

/-- Settles O2: with O1, decoding and encoding are inverse to each other on the well-formed instructions. -/
theorem everyAcceptedEncodingIsCanonical : Obligations.EveryAcceptedEncodingIsCanonical := by
  unfold Obligations.EveryAcceptedEncodingIsCanonical
  intro e i h
  cases e with
  | request w => exact ⟨wf_of_isRequest (decodeRequest_isRequest w i h), encode_of_decodeRequest h⟩
  | wire op ps => exact decodeWire_reads op ps i h

/-- Settles O4: each word is evaluated by the decoder. -/
theorem sampleWordsDecode : Obligations.SampleWordsDecode := by
  unfold Obligations.SampleWordsDecode
  decide

/-! ### The 21 opcodes -/

theorem mem_wireOpcodes_of_encode {i : Instr} {op : Byte} {ps : List Byte} (h : encode i = .wire op ps) :
    op ∈ wireOpcodes := by
  cases i <;> cases h <;> decide

/-- With the fewest parameters, all zero, each of the 21 is a command. -/
theorem decodeWire_leastParams_isOk :
    ∀ op ∈ wireOpcodes, (decodeWire op (List.replicate (leastParams op) 0)).isOk = true := by
  decide

/-- Settles O5: a decoded command has the opcode of its encoding, and each of the 21 has a shortest command. -/
theorem controllerOpcodesAreTheTwentyOne : Obligations.ControllerOpcodesAreTheTwentyOne := by
  unfold Obligations.ControllerOpcodesAreTheTwentyOne
  intro op
  constructor
  · rintro ⟨ps, i, h⟩
    exact mem_wireOpcodes_of_encode (decodeWire_reads op ps i h).2
  · intro hop
    obtain ⟨i, hi⟩ : ∃ i, decodeWire op (List.replicate (leastParams op) 0) = .ok i := by
      have hok := decodeWire_leastParams_isOk op hop
      cases hdec : decodeWire op (List.replicate (leastParams op) 0) with
      | ok i => exact ⟨i, rfl⟩
      | error r => rw [hdec] at hok; cases hok
    exact ⟨_, i, hi⟩

end Sys2Proof.Machine
end

section
/-! One step (R11, R31, R35): what it runs from an idle and from a busy state, and the interfaces no step writes. -/

namespace Sys2Proof.Machine

/-! ### The idle block -/

theorem boundaryStep_of_decode {s : State} {p : Presented} {rest : List Stimulus} {i : Instr}
    (hport : s.port = .request p :: rest) (hdec : decodeRequest p.word = .ok i) :
    boundaryStep s = exec i (accept p rest s) := by
  simp only [boundaryStep, hport, hdec]

theorem boundaryStep_of_blockReset {s : State} {rest : List Stimulus} (hport : s.port = .blockReset :: rest) :
    boundaryStep s = .next (blockReset { s with port := rest }) := by
  simp only [boundaryStep, hport]

/-- Settles O6: the idle block's step is the boundary's, which takes the word and runs what it decodes to. -/
theorem stepRunsTheDecodedRequest : Obligations.StepRunsTheDecodedRequest := by
  unfold Obligations.StepRunsTheDecodedRequest
  intro s p rest i hidle hport hdec
  rw [step_of_not_busy hidle, boundaryStep_of_decode hport hdec]
  rfl

theorem blockReset_atReset (s : State) : (blockReset s).atReset :=
  ⟨rfl, rfl, rfl, rfl, rfl, rfl, rfl, rfl, rfl, rfl, rfl, rfl, rfl⟩

/-- Settles O9: with the word gone from the port, the step is block reset itself. -/
theorem blockResetAtABoundary : Obligations.BlockResetAtABoundary := by
  unfold Obligations.BlockResetAtABoundary
  intro s rest hidle hport
  refine ⟨blockReset { s with port := rest }, ?_, blockReset_atReset _, rfl, rfl, rfl, rfl, rfl, rfl, ?dark⟩
  · rw [step_of_not_busy hidle, boundaryStep_of_blockReset hport]
  case dark => simp [blOutput, PwmOut.duty]

/-- No step of the idle block stops the machine. -/
theorem boundaryStep_next (s : State) : ∃ t, boundaryStep s = .next t := by
  unfold boundaryStep
  split
  next => exact ⟨_, rfl⟩
  next => exact ⟨_, rfl⟩
  next p rest _ =>
    cases decodeRequest p.word with
    | ok i => exact exec_next i (accept p rest s)
    | error r => exact ⟨_, rfl⟩

/-- Settles O44: a boundary state is idle. -/
theorem boundaryNeverStops : Obligations.BoundaryNeverStops := by
  unfold Obligations.BoundaryNeverStops
  intro s hs
  rw [step_of_not_busy hs.idle]
  exact boundaryStep_next s

/-! ### The busy block -/

theorem step_of_busy {s : State} (hbusy : s.busy = true) : step s = sequencerStep s := if_pos hbusy

/-- Settles O7: the busy block's step is the sequencer's, which takes the item and runs what its bytes decode to. -/
theorem stepRunsTheDecodedCommand : Obligations.StepRunsTheDecodedCommand := by
  unfold Obligations.StepRunsTheDecodedCommand
  intro s op ps rest i hbusy hseq hdec
  rw [step_of_busy hbusy]
  simp only [sequencerStep, hseq, hdec]
  rfl

/-- A response to a request that no block reset strikes. -/
theorem respond_of_uncut_nil {s : State} (e : Status) (h : s.uncut []) : respond e s = s.answered e [] := by
  rw [respond_uncut (uncut_ne h)]
  simp [State.answered]

/-- Nor is there a block reset at the end of any beginning of events it does not strike. -/
theorem uncut_sub_ne {s : State} {evs : List Event} (h : s.uncut evs) {n : Nat} (hn : n ≤ evs.length) :
    s.cut.map (· - n) ≠ some 0 := by
  intro h0
  obtain ⟨k, hk, hk'⟩ := Option.map_eq_some_iff.mp h0
  have := h k hk
  omega

/-- Settles O12: with an empty sequence the busy block only responds. -/
theorem runningRequestAnswersOkAtItsEnd : Obligations.RunningRequestAnswersOkAtItsEnd := by
  unfold Obligations.RunningRequestAnswersOkAtItsEnd
  intro s hbusy hseq hcut
  rw [step_of_busy hbusy, ← respond_of_uncut_nil .ok hcut]
  simp only [sequencerStep, hseq]

/-- What one item can do: all of it, or a failure or block reset after some of its events (R250, R290). -/
theorem runItem_cases (item : SeqOp) (s : State) :
    runItem item s = .done (itemNext item s) ∨
    (∃ evs, itemMicros item s ≠ [] ∧ runItem item s = .raised .transportError (s.after evs)) ∨
    (∃ evs, runItem item s = .struck (blockReset (s.after evs))) := by
  rw [runItem_eq]
  rcases perform_cases (itemMicros item s) s with ⟨-, h⟩ | ⟨pre, a, post, hm, -, -, -, h⟩ | ⟨pre, m, post, -, -, -, h⟩
  · exact .inl (by rw [h]; rfl)
  · exact .inr (.inl ⟨_, by simp [hm], by rw [h]; rfl⟩)
  · exact .inr (.inr ⟨_, by rw [h]; rfl⟩)

/-- Everything the sequencer can do without stopping the machine: respond, or run its next item (R35). -/
theorem sequencerStep_cases {s t : State} (h : sequencerStep s = .next t) :
    (s.seq = [] ∧ t = respond .ok s) ∨
    (∃ op ps rest i, s.seq = .cmd op ps :: rest ∧ decodeWire op ps = .ok i ∧ exec i (s.withSeq rest) = .next t) ∨
    (∃ item rest, s.seq = item :: rest ∧ t = settle (marksFailed item) (runItem item (s.withSeq rest))) := by
  unfold sequencerStep at h
  split at h
  next hseq => exact .inl ⟨hseq, (Host.Outcome.next.inj h).symm⟩
  next op ps rest hseq =>
    cases hdec : decodeWire op ps with
    | ok i => rw [hdec] at h; exact .inr (.inl ⟨op, ps, rest, i, hseq, hdec, h⟩)
    | error r => rw [hdec] at h; cases h
  next item rest _ hseq => exact .inr (.inr ⟨item, rest, hseq, (Host.Outcome.next.inj h).symm⟩)

/-- A step of a running request writes neither the configuration (R32) nor the port (R31). -/
theorem sequencerStep_static_port {s t : State} (h : sequencerStep s = .next t) :
    t.static = s.static ∧ t.port = s.port := by
  rcases sequencerStep_cases h with ⟨-, rfl⟩ | ⟨op, ps, rest, i, -, -, hexec⟩ | ⟨item, rest, -, rfl⟩
  · exact ⟨respond_static _ _, respond_port _ _⟩
  · exact exec_static i (s.withSeq rest) t hexec
  · rcases runItem_cases item (s.withSeq rest) with hrun | ⟨evs, -, hrun⟩ | ⟨evs, hrun⟩ <;>
      simp [hrun, settle, respond_static, respond_port]

/-- Settles O11: the port is written at the boundary alone. -/
theorem busyBlockTakesNoWord : Obligations.BusyBlockTakesNoWord := by
  unfold Obligations.BusyBlockTakesNoWord
  intro s t hbusy hstep
  rw [step_of_busy hbusy] at hstep
  exact (sequencerStep_static_port hstep).2

/-- Settles O39: neither the idle nor the busy block writes the configuration. -/
theorem staticConfigurationNeverChanges : Obligations.StaticConfigurationNeverChanges := by
  unfold Obligations.StaticConfigurationNeverChanges
  intro s t hstep
  cases hbusy : s.busy with
  | true =>
    rw [step_of_busy hbusy] at hstep
    exact (sequencerStep_static_port hstep).1
  | false =>
    rcases step_idle_cases hbusy hstep with ⟨-, rfl⟩ | ⟨rest, -, rfl⟩ | ⟨p, rest, r, -, -, rfl⟩ |
      ⟨p, rest, i, -, -, hexec⟩
    · rfl
    · rfl
    · rw [illegalRequest_eq_respond, respond_static]
      rfl
    · exact (exec_static i (accept p rest s) t hexec).1

end Sys2Proof.Machine
end

section
/-! Which items a request's program is made of (R171 to R180), said once; the frames and the item-by-item run follow
from it. -/

namespace Sys2Proof.Machine

/-- The items a request's program can have; the bytes of its command items are controller commands (R96). -/
inductive Performs : Instr → SeqOp → Prop where
  | resetLc (l : Lifecycle) : Performs .reset (.setLc l)
  | resetRst (l : Level) : Performs .reset (.rst l)
  | resetWait (ms : Nat) : Performs .reset (.wait ms)
  | initLc {o : Orientation} {w h : Dim} (l : Lifecycle) : Performs (.init o w h) (.setLc l)
  | initRst {o : Orientation} {w h : Dim} (l : Level) : Performs (.init o w h) (.rst l)
  | initWait {o : Orientation} {w h : Dim} (ms : Nat) : Performs (.init o w h) (.wait ms)
  | initCfg {o : Orientation} {w h : Dim} : Performs (.init o w h) (.setCfg o w h)
  | initCmd {o : Orientation} {w h : Dim} {op : Byte} {ps : List Byte} {j : Instr} (hdec : decodeWire op ps = .ok j) :
      Performs (.init o w h) (.cmd op ps)
  | brightPwm {pct : Half} (q : BitVec 7) : Performs (.bright pct) (.pwm q)
  | brightBl {pct : Half} (q : BitVec 7) : Performs (.bright pct) (.setBl q)
  | clearFill (n : Nat) : Performs .clear (.fill n)
  | clearCmd {op : Byte} {ps : List Byte} {j : Instr} (hdec : decodeWire op ps = .ok j) : Performs .clear (.cmd op ps)
  | clearStream : Performs .clear .stream
  | blitEncode {c r : Dim} (n : Nat) : Performs (.blit c r) (.encode n)
  | blitCmd {c r : Dim} {op : Byte} {ps : List Byte} {j : Instr} (hdec : decodeWire op ps = .ok j) :
      Performs (.blit c r) (.cmd op ps)
  | blitStream {c r : Dim} : Performs (.blit c r) .stream

theorem mem_hardReset {c : Config} {item : SeqOp} (h : item ∈ hardReset c) :
    (∃ l, item = .rst l) ∨ ∃ ms, item = .wait ms := by
  simp only [hardReset, List.mem_cons, List.not_mem_nil, or_false] at h
  rcases h with rfl | rfl | rfl | rfl | rfl | rfl <;> simp

theorem mem_emitWindow {c : Config} {r : Rect} {o : Orientation} {item : SeqOp} (h : item ∈ emitWindow c r o) :
    ∃ op ps j, item = .cmd op ps ∧ decodeWire op ps = .ok j := by
  simp only [emitWindow, List.mem_cons, List.not_mem_nil, or_false] at h
  rcases h with rfl | rfl | rfl
  · exact ⟨_, _, _, rfl, decodeOfEncodeIsTheInstruction (.cmd2A _ _) rfl⟩
  · exact ⟨_, _, _, rfl, decodeOfEncodeIsTheInstruction (.cmd2B _ _) rfl⟩
  · exact ⟨_, _, _, rfl, decodeOfEncodeIsTheInstruction .cmd2C rfl⟩

theorem length_listOf_pos (b : Bytes1) : 1 ≤ (listOf b).length := Nat.succ_pos _

/-- R175 gives each init command as many parameters as its opcode takes. -/
theorem decodeWire_initOp (t : InitParams) (op : InitOp) : ∃ j, decodeWire (initOpcode op) (initBytes t op) = .ok j := by
  cases op
  case i21 => exact ⟨.cmd21, rfl⟩
  case i11 => exact ⟨.cmd11, rfl⟩
  case iE0 => exact ⟨.cmdE0 t.pE0.toList, gammaParams_eq_ok_iff.mpr ⟨Vector.length_toList, rfl⟩⟩
  case iE1 => exact ⟨.cmdE1 t.pE1.toList, gammaParams_eq_ok_iff.mpr ⟨Vector.length_toList, rfl⟩⟩
  all_goals exact ⟨_, someParams_eq_ok_iff.mpr ⟨length_listOf_pos _, rfl⟩⟩

theorem performs_of_mem_programOf {i : Instr} {s : State} {items : List SeqOp} {item : SeqOp}
    (hr : isRequest i = true) (hp : programOf i s = .ok items) (hm : item ∈ items) : Performs i item := by
  cases i <;> try exact absurd hr Bool.false_ne_true
  case reset =>
    obtain rfl := Except.ok.inj hp
    obtain rfl | hm := List.mem_cons.mp hm
    · exact .resetLc _
    · obtain ⟨l, rfl⟩ | ⟨ms, rfl⟩ := mem_hardReset hm
      · exact .resetRst l
      · exact .resetWait ms
  case init o w h =>
    by_cases hz : w = 0 ∨ h = 0
    · rw [programOf_init_zero hz] at hp
      cases hp
    rw [programOf_init hz] at hp
    obtain rfl := Except.ok.inj hp
    simp only [List.mem_append, List.mem_cons, List.mem_map, List.not_mem_nil, or_false] at hm
    obtain (((rfl | hm) | rfl | rfl) | ⟨op, -, rfl⟩) | rfl | rfl | rfl := hm
    · exact .initLc _
    · obtain ⟨l, rfl⟩ | ⟨ms, rfl⟩ := mem_hardReset hm
      · exact .initRst l
      · exact .initWait ms
    · exact .initCfg
    · exact .initLc _
    · obtain ⟨j, hj⟩ := decodeWire_initOp s.static.initParams op
      exact .initCmd hj
    · exact .initWait _
    · exact .initCmd (decodeOfEncodeIsTheInstruction .cmd29 rfl)
    · exact .initLc _
  case bright pct =>
    obtain rfl := Except.ok.inj hp
    simp only [List.mem_cons, List.not_mem_nil, or_false] at hm
    obtain rfl | rfl := hm
    · exact .brightPwm _
    · exact .brightBl _
  case clear =>
    by_cases hl : s.lc = .ready
    · rw [programOf_clear hl] at hp
      obtain rfl := Except.ok.inj hp
      simp only [List.mem_append, List.mem_cons, List.not_mem_nil, or_false] at hm
      obtain (rfl | hm) | rfl := hm
      · exact .clearFill _
      · obtain ⟨op, ps, j, rfl, hj⟩ := mem_emitWindow hm
        exact .clearCmd hj
      · exact .clearStream
    · rw [programOf_clear_not hl] at hp
      cases hp
  case blit c r =>
    obtain ⟨mac, rect, o, rfl⟩ : ∃ mac rect o, items = .encode (c.toNat * r.toNat) :: .cmd 0x36 [mac] ::
        emitWindow s.static rect o ++ [.stream] := by
      by_cases hl : s.lc = .ready
      · rw [programOf_blit hl] at hp
        rcases hs : selectPath s.cfgW s.cfgH c r with _ | _ | _ <;> rw [hs] at hp
        · cases hp
        · exact ⟨_, _, _, (Except.ok.inj hp).symm⟩
        · exact ⟨_, _, _, (Except.ok.inj hp).symm⟩
      · rw [programOf_blit_not hl] at hp
        cases hp
    simp only [List.mem_append, List.mem_cons, List.not_mem_nil, or_false] at hm
    obtain (rfl | rfl | hm) | rfl := hm
    · exact .blitEncode _
    · exact .blitCmd (decodeOfEncodeIsTheInstruction (.cmd36 [mac]) rfl)
    · obtain ⟨op, ps, j, rfl, hj⟩ := mem_emitWindow hm
      exact .blitCmd hj
    · exact .blitStream

/-- The events of a stopped request and the action it stopped at are the beginning of its full trace. -/
theorem stopped_prefix {i : Instr} {s : State} {before rest : List SeqOp} {item : SeqOp} {pre post : List Micro}
    {m : Micro} (hr : isRequest i = true) (hp : programOf i s = .ok (before ++ item :: rest))
    (hm : itemMicros item (itemsNext before (s.withBusy true)) = pre ++ m :: post) :
    itemsEvents before (s.withBusy true) ++ pre.map Micro.event ++ [m.event] <+: fullTrace i s := by
  have hspec := (program_spec i (s.withBusy true) _ hr (by rwa [programOf_withBusy])).1
  rw [stopped_events _ before rest item pre post m _ rfl hm, fullTrace_withBusy] at hspec
  rw [← hspec]
  exact ⟨_, (List.append_cons ..).symm⟩

end Sys2Proof.Machine
end

section
/-! The boundary invariant (R27, R28, R35, R65). A response and block reset both leave the block idle with nothing
held, so a request keeps the invariant if the registers and the trace it hands to either of them are as they should
be. -/

namespace Sys2Proof.Machine

/-- The invariant of a request boundary but for the fields that the end of a request clears. -/
structure State.Sound (s : State) : Prop where
  lifecycle : s.lc ≠ .initializing
  duty : s.blPct.toNat ≤ 100
  dims : s.lc = .ready → s.cfgW ≠ 0 ∧ s.cfgH ≠ 0
  config : s.static.wf = true
  framing : framed s.static.chunk none s.trace = true

theorem State.Boundary.sound {s : State} (hs : s.Boundary) : s.Sound :=
  ⟨hs.lifecycle, hs.duty, hs.dims, hs.config, hs.framing⟩

theorem State.Sound.chunk_pos {s : State} (hs : s.Sound) : 1 ≤ s.static.chunk := by
  obtain ⟨hchunk, -, -, -⟩ := Config.wf_bounds hs.config
  omega

theorem blockReset_boundary {s : State} (hc : s.static.wf = true) (hf : framed s.static.chunk none s.trace = true) :
    (blockReset s).Boundary :=
  ⟨rfl, rfl, rfl, by simp, by simp, by simp, hc, hf⟩

theorem respond_boundary {s : State} (e : Status) (hs : s.Sound) : (respond e s).Boundary := by
  by_cases hcut : s.cut = some 0
  · rw [respond_cut hcut]
    exact blockReset_boundary hs.config hs.framing
  · rw [respond_uncut hcut]
    exact ⟨rfl, rfl, rfl, hs.lifecycle, hs.duty, hs.dims, hs.config, hs.framing⟩

/-- Well-framed events keep the invariant: they write only the levels and the environment. -/
theorem State.Sound.after {s : State} {evs : List Event} (hs : s.Sound)
    (hf : framed s.static.chunk none evs = true) : (s.after evs).Sound :=
  ⟨hs.lifecycle, hs.duty, hs.dims, hs.config, framed_append _ _ _ _ hs.framing hf⟩

theorem clampPercent_le (p : Int) : (clampPercent p).toNat ≤ 100 := by
  have h := clampPercent_toNat p
  split at h <;> [skip; split at h] <;> omega

/-- R252. -/
theorem nonzero_of_programOf_init {s : State} {o : Orientation} {w h : Dim} {items : List SeqOp}
    (hp : programOf (.init o w h) s = .ok items) : ¬ (w = 0 ∨ h = 0) := by
  intro hz
  rw [programOf_init_zero hz] at hp
  cases hp

/-- What a whole program writes: RESET leaves RESETTING, INIT non-zero dimensions (R252), BRIGHT a percentage. -/
theorem programRegs_sound {i : Instr} {s : State} {items : List SeqOp} (hs : s.Sound) (hr : isRequest i = true)
    (hp : programOf i s = .ok items) : (programRegs i s).Sound := by
  obtain ⟨hlc, hduty, hdims, hconf, hframe⟩ := hs
  cases i <;> try exact absurd hr Bool.false_ne_true
  case reset => exact ⟨by simp [programRegs], hduty, by simp [programRegs], hconf, hframe⟩
  case init o w h =>
    exact ⟨by simp [programRegs], hduty, fun _ => not_or.mp (nonzero_of_programOf_init hp), hconf, hframe⟩
  case bright pct => exact ⟨hlc, clampPercent_le _, hdims, hconf, hframe⟩
  case clear => exact ⟨hlc, hduty, hdims, hconf, hframe⟩
  case blit c r => exact ⟨hlc, hduty, hdims, hconf, hframe⟩

/-- A failed action leaves FAILED with the dimensions and the duty as they are, BRIGHT's everything (R258). -/
theorem failed_sound {i : Instr} {s : State} {before rest : List SeqOp} {item : SeqOp} {pre post : List Micro}
    {a : Action} (hs : s.Sound) (hr : isRequest i = true) (hp : programOf i s = .ok (before ++ item :: rest))
    (hm : itemMicros item (itemsNext before (s.withBusy true)) = pre ++ .act a :: post) :
    (catchError (marksOf i) .transportError
      (((itemsNext before (s.withBusy true)).after (pre.map Micro.event ++ [.failed a])).withSeq rest)).Sound := by
  have hframe : framed s.static.chunk none
      (s.trace ++ (itemsEvents before (s.withBusy true) ++ pre.map Micro.event ++ [.failed a])) = true := by
    obtain ⟨evs, hevs⟩ := stopped_prefix hr hp hm
    have hfull := framed_full i s hr hs.chunk_pos
    rw [← hevs] at hfull
    exact framed_append _ _ _ _ hs.framing (framed_fail _ _ _ a (framed_prefix _ _ _ evs hfull))
  cases hmarks : marksOf i with
  | true =>
    have hbl := itemsNext_blPct before (s.withBusy true) fun q hq =>
      program_setBl hr hmarks hp q (List.mem_append_left _ hq)
    refine ⟨by simp, ?_, by simp, by simpa using hs.config, by simpa using hframe⟩
    simpa [hbl] using hs.duty
  | false =>
    obtain rfl := program_stopped_bright hr hmarks hp (u := itemsNext before (s.withBusy true)) (by simp [hm])
    exact ⟨by simpa [itemsNext] using hs.lifecycle, by simpa [itemsNext] using hs.duty,
      by simpa [itemsNext] using hs.dims, by simpa using hs.config, by simpa using hframe⟩

theorem exec_request_boundary {i : Instr} {s t : State} (hs : s.Sound) (hr : isRequest i = true)
    (h : exec i s = .next t) : t.Boundary := by
  have hbusy : (s.withBusy true).Sound := ⟨hs.lifecycle, hs.duty, hs.dims, hs.config, hs.framing⟩
  rcases exec_request_cases i s t hr h with ⟨e, -, rfl⟩ | ⟨items, hp, hrun⟩
  · exact respond_boundary e hbusy
  rcases hrun with ⟨r, -, rfl⟩ | ⟨before, item, rest, pre, a, post, rfl, hm, -, -, -, rfl⟩ |
    ⟨before, item, rest, pre, m, post, rfl, hm, -, -, rfl⟩
  · have hregs := programRegs_sound hbusy hr (by rwa [programOf_withBusy])
    have hend : (programEnd i (s.withBusy true)).Sound := by
      refine hregs.after ?_
      have hstatic : (programRegs i (s.withBusy true)).static = (s.withBusy true).static := by cases i <;> rfl
      rw [hstatic]
      exact framed_full i _ hr hbusy.chunk_pos
    exact respond_boundary .ok ⟨hend.lifecycle, hend.duty, hend.dims, hend.config, hend.framing⟩
  · exact respond_boundary .transportError (failed_sound hs hr hp hm)
  · obtain ⟨evs, hevs⟩ := stopped_prefix hr hp hm
    have hfull := framed_full i s hr hs.chunk_pos
    rw [← hevs] at hfull
    have hpre := framed_append _ _ _ _ hs.framing (framed_prefix _ _ _ _ (framed_prefix _ _ _ evs hfull))
    exact blockReset_boundary (by simpa using hs.config) (by simpa using hpre)

/-- Settles O43: the idle block waits, is reset, refuses an illegal word or runs a request, and the word taken with
its environment is no part of the invariant. -/
theorem stepKeepsTheBoundary : Obligations.StepKeepsTheBoundary := by
  unfold Obligations.StepKeepsTheBoundary
  intro s t hs hstep
  have hsound := hs.sound
  rcases step_idle_cases hs.idle hstep with ⟨-, rfl⟩ | ⟨rest, -, rfl⟩ | ⟨p, rest, r, -, -, rfl⟩ |
    ⟨p, rest, i, -, hdec, hexec⟩
  · exact hs
  · exact blockReset_boundary hs.config hs.framing
  · rw [illegalRequest_eq_respond]
    exact respond_boundary _ ⟨hs.lifecycle, hs.duty, hs.dims, hs.config, hs.framing⟩
  · exact exec_request_boundary (s := accept p rest s) ⟨hs.lifecycle, hs.duty, hs.dims, hs.config, hs.framing⟩
      (decodeRequest_isRequest _ _ hdec) hexec

/-- The open pins are distinct because a permutation is injective (R6, D40). -/
theorem Config.source_wf : Config.source.wf = true := by
  simp [Config.wf, Config.source]

/-- Settles O42: the registers' reset values are those of a boundary, and the source's configuration meets R7. -/
theorem resetIsABoundary : Obligations.ResetIsABoundary := by
  unfold Obligations.ResetIsABoundary
  exact ⟨⟨rfl, rfl, rfl, by decide, by decide, by decide, Config.source_wf, rfl⟩, rfl⟩

end Sys2Proof.Machine
end

section
/-! Construction (R7, R252), the outputs (R36, R264) and the source's values (R6). -/

namespace Sys2Proof.Machine

theorem Config.wf_iff (c : Config) : c.wf = true ↔
    2 ≤ c.chunk ∧ c.chunk % 2 = 0 ∧ c.offset + (2 ^ c.dimBits - 2) ≤ 0xFFFF ∧ c.dimBits = 12 ∧
    0 < c.spiMaxHz ∧ 0 < c.pwmHz ∧ c.pinRst ≠ c.pinDc ∧ c.pinRst ≠ c.pinBl ∧ c.pinDc ≠ c.pinBl := by
  simp only [Config.wf, Bool.and_eq_true, decide_eq_true_eq, and_assoc]

theorem construct_of_wf {c : Config} (h : c.wf = true) : construct c = .ok { State.reset with static := c } := if_pos h

theorem construct_of_not_wf {c : Config} (h : c.wf ≠ true) : construct c = .error .configurationError := if_neg h

/-- Settles O58: construction is the check of R7, and every register it sets is that of reset. -/
theorem constructionChecksTheConfiguration : Obligations.ConstructionChecksTheConfiguration := by
  unfold Obligations.ConstructionChecksTheConfiguration
  intro c
  rw [← Config.wf_iff]
  by_cases h : c.wf = true
  · rw [construct_of_wf h]
    refine ⟨iff_of_true ⟨_, rfl⟩ h, fun s hs => ?atReset, fun e he => ?_⟩
    case atReset =>
      rw [← Except.ok.inj hs]
      exact ⟨⟨rfl, rfl, rfl, rfl, rfl, rfl, rfl, rfl, rfl, rfl, rfl, rfl, rfl⟩, rfl⟩
    cases he
  · rw [construct_of_not_wf h]
    refine ⟨iff_of_false ?_ h, fun s hs => ?_, fun e he => (Except.error.inj he).symm⟩
    · rintro ⟨s, hs⟩
      cases hs
    · cases hs

/-- R264: no part of the period lies below a duty of 0. -/
theorem levelAt_of_duty_zero {p : PwmOut} {x : ℚ} (hp : p.duty = 0) (hx : 0 ≤ x) : p.levelAt x = .low :=
  if_neg (by rw [hp]; exact not_lt.mpr hx)

/-- R264: all of it lies below a duty of 1. -/
theorem levelAt_of_duty_one {p : PwmOut} {x : ℚ} (hp : p.duty = 1) (hx : x < 1) : p.levelAt x = .high :=
  if_pos (by rwa [hp])

/-- Settles O59: the backlight at both ends by its duty fraction, every other output and code by its definition. -/
theorem outputsShowTheState : Obligations.OutputsShowTheState := by
  unfold Obligations.OutputsShowTheState
  intro s
  refine ⟨rfl, rfl, rfl, rfl, fun x hx hbl => levelAt_of_duty_zero ?dark hx,
    fun x hx hbl => levelAt_of_duty_one ?full hx, rfl, rfl, rfl, rfl, rfl, rfl, rfl, rfl, rfl, rfl, rfl, rfl⟩
  case dark => simp [blOutput, PwmOut.duty, hbl]
  case full => simp [blOutput, PwmOut.duty, hbl]

/-- Settles O60: the numbers are those of `Config.source`, and the pins are distinct because it meets R7. -/
theorem sourceConfigurationValues : Obligations.SourceConfigurationValues := by
  unfold Obligations.SourceConfigurationValues
  obtain ⟨-, -, -, -, -, -, hpins⟩ := (Config.wf_iff _).mp Config.source_wf
  exact ⟨rfl, rfl, rfl, rfl, rfl, rfl, rfl, rfl, rfl, hpins⟩

end Sys2Proof.Machine
end

section
/-! Reading the pixel source (R51, R52). -/

namespace Sys2Proof.Machine

/-- Each read takes one element of the source, so reads and elements stay in step (R51). -/
theorem getElem?_readPixels_stable {cs : List PixCell} {n i : Nat} {p : Pixel} (d : Nat) (hi : i < n)
    (h : cs[i]? = some (.stable p)) : (readPixels cs d n)[i]? = some p := by
  induction cs generalizing d n i with
  | nil => cases h
  | cons c cs ih =>
    cases n with
    | zero => exact absurd hi (Nat.not_lt_zero i)
    | succ n =>
      cases i with
      | zero =>
        obtain rfl : c = .stable p := by simpa using h
        rfl
      | succ i => cases c <;> exact ih (d + 1) (Nat.lt_of_succ_lt_succ hi) h

/-- Settles O50: the count by `length_readPixels`. -/
theorem stablePixelsAreReadInOrder : Obligations.StablePixelsAreReadInOrder := by
  unfold Obligations.StablePixelsAreReadInOrder
  intro cs d n i p
  exact ⟨length_readPixels cs d n, getElem?_readPixels_stable d⟩

end Sys2Proof.Machine
end

section
/-! Whole requests and commands whose environment is calm (R171 to R183, R119), and the two that end at once: INIT
with a zero dimension (R252) and BRIGHT whose action fails (R258). -/

namespace Sys2Proof.Machine

/-! ### Requests -/

/-- Settles O14: RESET has no check, and its last edge leaves RST high. -/
theorem resetDrivesThreeEdges : Obligations.ResetDrivesThreeEdges := by
  unfold Obligations.ResetDrivesThreeEdges
  intro s hc
  exact exec_calm .reset s _ rfl rfl hc

/-- Settles O16: the dimensions are checked before anything else. -/
theorem initRejectsAZeroDimension : Obligations.InitRejectsAZeroDimension := by
  unfold Obligations.InitRejectsAZeroDimension
  intro s o width height hz hc
  exact exec_error (.init o width height) s _ rfl (programOf_init_zero hz) hc

/-- R178: the clamp, as the spec writes it with maximum and minimum. -/
theorem eq_clampPercent {q : BitVec 7} {p : Int} (h : (q.toNat : Int) = max 0 (min 100 p)) : q = clampPercent p := by
  apply BitVec.eq_of_toNat_eq
  apply Int.ofNat_inj.mp
  rw [h, clampPercent_toNat]
  omega

/-- Settles O17: BRIGHT has no check, and its one action writes no level. -/
theorem brightSetsTheClampedDuty : Obligations.BrightSetsTheClampedDuty := by
  unfold Obligations.BrightSetsTheClampedDuty
  intro s pct q hq hc
  obtain rfl : q = clampPercent (percentOf pct) := eq_clampPercent hq
  exact exec_calm (.bright pct) s _ rfl rfl hc

theorem act_of_fail {s : State} (a : Action) (hc : s.cut ≠ some 0) (hf : s.answerAt 0 = .fail) :
    act a s = .raised .transportError (s.after [.failed a]) := by
  rw [answerAt_zero] at hf
  simp only [act, hc, hf, if_false, dropAnswer_emit_failed]

/-- Settles O18: BRIGHT's first item is its action, and its TransportError is not caught as FAILED. -/
theorem brightFailureChangesNothing : Obligations.BrightFailureChangesNothing := by
  unfold Obligations.BrightFailureChangesNothing
  intro s pct hf hc
  have hnow : s.cut ≠ some 0 := by simpa using uncut_sub_ne hc (Nat.zero_le _)
  have hrun := act_of_fail (s := (s.withBusy true).withSeq [.setBl (clampPercent (percentOf pct))])
    (.pwm (clampPercent (percentOf pct))) hnow hf
  rw [exec_request _ s rfl]
  simp only [execute, programOf, brightProgram, marksOf, runItems, runItem, hrun, Run.bind, finish, catchError,
    Bool.false_eq_true, false_and, if_false]
  rw [respond_uncut (uncut_sub_ne hc (le_refl _))]
  rfl

/-- A drawing request's levels: RST is not written, and the block leaves DC high. -/
theorem lastLevel_window_block (s : State) (r : Rect) (o : Orientation) (bs : List Byte) :
    lastLevel .rst s.rstLvl (traceWindow s.static r o ++ traceBlock s.static.chunk bs) = s.rstLvl ∧
    lastLevel .dc s.dcLvl (traceWindow s.static r o ++ traceBlock s.static.chunk bs) = .high := by
  simp only [lastLevel_append, lastLevel_block, lastLevel_rst_window]
  exact ⟨rfl, rfl⟩

theorem lastLevel_mac_window_block (s : State) (mac : Byte) (r : Rect) (o : Orientation) (bs : List Byte) :
    lastLevel .rst s.rstLvl (traceCmd 0x36 [mac] ++ traceWindow s.static r o ++ traceBlock s.static.chunk bs) =
      s.rstLvl ∧
    lastLevel .dc s.dcLvl (traceCmd 0x36 [mac] ++ traceWindow s.static r o ++ traceBlock s.static.chunk bs) =
      .high := by
  simp only [lastLevel_append, lastLevel_block, lastLevel_rst_window, lastLevel_rst_traceCmd]
  exact ⟨rfl, rfl⟩

theorem exec_clear_calm {s : State} (hl : s.lc = .ready) (hc : s.calm (traceClear s)) :
    exec .clear s = .next { s.answered .ok (traceClear s) with dcLvl := .high } := by
  have htrace := fullTrace_clear hl
  obtain ⟨hrst, hdc⟩ := lastLevel_window_block s (fullRect s.cfgOrient s.cfgW s.cfgH) s.cfgOrient
    (List.replicate (2 * s.cfgW.toNat * s.cfgH.toNat) 0xFF)
  rw [exec_calm .clear s _ rfl (programOf_clear hl) (htrace ▸ hc), htrace, traceClear, hrst, hdc]
  rfl

/-- Settles O19: the outcome by `exec_clear_calm`; the stored orientation decides which side spans the columns (R137)
and which axis has the offset (R131). -/
theorem clearFillsTheWindowWhite : Obligations.ClearFillsTheWindowWhite := by
  unfold Obligations.ClearFillsTheWindowWhite
  intro s hl hc
  refine ⟨exec_clear_calm hl hc, fun ho => ?landscape, fun ho => ?portrait⟩
  all_goals
    simp only [traceClear, traceWindow, ho, fullRect, resolveWindow, columnOffset, rowOffset, traceC, Nat.zero_add,
      Nat.add_zero, List.append_assoc, List.cons_append, List.nil_append]
    rfl

/-- R181: path A is tested first. -/
theorem selectPath_pathA (cfgW cfgH : Dim) : selectPath cfgW cfgH cfgW cfgH = some .a := if_pos ⟨rfl, rfl⟩

/-- R181: path B is for the swapped shape where it is not the same shape. -/
theorem selectPath_pathB {cfgW cfgH : Dim} (h : cfgW ≠ cfgH) : selectPath cfgW cfgH cfgH cfgW = some .b := by
  rw [selectPath, if_neg fun hA => h hA.2, if_pos ⟨rfl, rfl⟩]

/-- Both paths are the MAC command, a window and the frame (R182, R183). -/
theorem exec_blit_calm {s : State} {cols rows : Dim} {mac : Byte} {r : Rect} {o : Orientation}
    (hp : programOf (.blit cols rows) s = .ok (.encode (cols.toNat * rows.toNat) :: .cmd 0x36 [mac] ::
      emitWindow s.static r o ++ [.stream]))
    (ht : fullTrace (.blit cols rows) s =
      traceCmd 0x36 [mac] ++ traceWindow s.static r o ++ traceBlock s.static.chunk (frameOf s cols rows))
    (hc : s.calm (fullTrace (.blit cols rows) s)) :
    exec (.blit cols rows) s = .next { s.answered .ok (fullTrace (.blit cols rows) s) with
      dcLvl := .high, pixelDraws := s.pixelDraws + cols.toNat * rows.toNat } := by
  obtain ⟨hrst, hdc⟩ := lastLevel_mac_window_block s mac r o (frameOf s cols rows)
  rw [← ht] at hrst hdc
  rw [exec_calm _ s _ rfl hp hc, hrst, hdc]
  rfl

/-- Settles O21: the shape selects path A, square panels included. -/
theorem blitLandscapePath : Obligations.BlitLandscapePath := by
  unfold Obligations.BlitLandscapePath
  rintro s cols rows hl rfl rfl hc
  have hpath := selectPath_pathA s.cfgW s.cfgH
  have htrace : fullTrace (.blit s.cfgW s.cfgH) s = traceBlitA s s.cfgW s.cfgH := by rw [fullTrace_blit hl, hpath]
  rw [← htrace] at hc ⊢
  exact exec_blit_calm (by rw [programOf_blit hl, hpath]) htrace hc

/-- Settles O22: on a panel that is not square the swapped shape selects path B. -/
theorem blitPortraitPath : Obligations.BlitPortraitPath := by
  unfold Obligations.BlitPortraitPath
  rintro s cols rows hl rfl rfl hne hc
  have hpath := selectPath_pathB hne
  have htrace : fullTrace (.blit s.cfgH s.cfgW) s = traceBlitB s s.cfgH s.cfgW := by rw [fullTrace_blit hl, hpath]
  rw [← htrace] at hc ⊢
  exact exec_blit_calm (by rw [programOf_blit hl, hpath]) htrace hc

/-! ### Controller commands -/

/-- Settles O25: each of the fifteen is encoded as its opcode with its parameters, and a last parameter leaves DC
high. -/
theorem parameterisedCommandsEmit : Obligations.ParameterisedCommandsEmit := by
  unfold Obligations.ParameterisedCommandsEmit
  intro s p ps op i hi hc
  have henc : encode i = .wire op (p :: ps) := by
    simp only [List.mem_cons, List.not_mem_nil, or_false, Prod.mk.injEq] at hi
    rcases hi with ⟨rfl, rfl⟩ | ⟨rfl, rfl⟩ | ⟨rfl, rfl⟩ | ⟨rfl, rfl⟩ | ⟨rfl, rfl⟩ | ⟨rfl, rfl⟩ | ⟨rfl, rfl⟩ |
      ⟨rfl, rfl⟩ | ⟨rfl, rfl⟩ | ⟨rfl, rfl⟩ | ⟨rfl, rfl⟩ | ⟨rfl, rfl⟩ | ⟨rfl, rfl⟩ | ⟨rfl, rfl⟩ | ⟨rfl, rfl⟩ <;> rfl
  rw [exec_command_calm i s op _ henc hc, if_neg (List.cons_ne_nil p ps)]

/-- Settles O26: without parameters the opcode's own DC level stays. -/
theorem bareCommandsEmit : Obligations.BareCommandsEmit := by
  unfold Obligations.BareCommandsEmit
  intro s op i hi hc
  have henc : encode i = .wire op [] := by
    simp only [List.mem_cons, List.not_mem_nil, or_false, Prod.mk.injEq] at hi
    rcases hi with ⟨rfl, rfl⟩ | ⟨rfl, rfl⟩ | ⟨rfl, rfl⟩ | ⟨rfl, rfl⟩ <;> rfl
  rw [exec_command_calm i s op [] henc hc, if_pos rfl]
  rfl

end Sys2Proof.Machine
end

section
/-! Failures, block reset and statuses (R117, R250 to R258, R290): what a run adds to the trace, which action can be the
first to fail, and the state by the status answered. -/

namespace Sys2Proof.Machine

theorem respond_trace (e : Status) (s : State) : (respond e s).trace = s.trace := by
  unfold respond
  split <;> rfl

@[simp] theorem programRegs_trace (i : Instr) (s : State) : (programRegs i s).trace = s.trace := by cases i <;> rfl
@[simp] theorem programRegs_responses (i : Instr) (s : State) : (programRegs i s).responses = s.responses := by
  cases i <;> rfl
@[simp] theorem programRegs_static (i : Instr) (s : State) : (programRegs i s).static = s.static := by cases i <;> rfl
@[simp] theorem programRegs_port (i : Instr) (s : State) : (programRegs i s).port = s.port := by cases i <;> rfl
@[simp] theorem programRegs_cut (i : Instr) (s : State) : (programRegs i s).cut = s.cut := by cases i <;> rfl

/-! ### What a run adds to the trace -/

/-- Settles O29: a check adds nothing, a whole program its full trace, and a failure or block reset the events up to
the action it stops. -/
theorem everyTraceIsAPrefixOrFailsNext : Obligations.EveryTraceIsAPrefixOrFailsNext := by
  unfold Obligations.EveryTraceIsAPrefixOrFailsNext
  intro i s t h
  cases hr : isRequest i with
  | true =>
    rcases exec_request_cases i s t hr h with ⟨e, -, rfl⟩ | ⟨items, hp, hrun⟩
    · exact ⟨[], by simp [respond_trace], .inl List.nil_prefix⟩
    rcases hrun with ⟨r, -, rfl⟩ | ⟨before, item, rest, pre, a, post, rfl, hm, -, -, -, rfl⟩ |
      ⟨before, item, rest, pre, m, post, rfl, hm, -, -, rfl⟩
    · exact ⟨fullTrace i s, by simp [respond_trace, programEnd], .inl (List.prefix_refl _)⟩
    · exact ⟨_, by simp [respond_trace], .inr ⟨_, a, rfl, stopped_prefix hr hp hm⟩⟩
    · exact ⟨_, by simp, .inl ((List.prefix_append _ _).trans (stopped_prefix hr hp hm))⟩
  | false =>
    obtain ⟨op, ps, henc, htrace⟩ := wire_of hr
    rw [htrace]
    rcases exec_command_cases i s t op ps henc h with ⟨-, rfl⟩ | ⟨evs, a, hpre, -, -, rfl⟩ | ⟨evs, hpre, -, -, -, rfl⟩
    · exact ⟨_, rfl, .inl (List.prefix_refl _)⟩
    · exact ⟨_, respond_trace _ _, .inr ⟨evs, a, rfl, hpre⟩⟩
    · exact ⟨_, rfl, .inl hpre⟩

/-! ### The first failing action -/

theorem getElem?_of_prefix {evs full : List Event} {e : Event} (h : evs ++ [e] <+: full) :
    full.take evs.length = evs ∧ full[evs.length]? = some e := by
  obtain ⟨post, rfl⟩ := h
  simp

/-- An action takes one more answer than the events before it. -/
theorem actionCount_take_lt {evs : List Event} {k n : Nat} {a : Action} (hk : evs[k]? = some (.did a)) (hn : k < n) :
    actionCount (evs.take k) < actionCount (evs.take n) := by
  have hpre : evs.take (k + 1) <+: evs.take n := List.take_prefix_take_left (by omega)
  have hle : actionCount (evs.take (k + 1)) ≤ actionCount (evs.take n) := hpre.sublist.countP_le
  rw [List.take_add_one, hk, actionCount_append] at hle
  exact hle

/-- Of the actions of a trace only one can be the first that is answered fail. -/
theorem firstFailure_unique {s : State} {full evs : List Event} {k : Nat} {a b : Action}
    (hpre : evs ++ [.did b] <+: full) (hok : ∀ j, j < actionCount evs → s.answerAt j = .ok)
    (hfail : s.answerAt (actionCount evs) = .fail) (hk : full[k]? = some (.did a))
    (hok' : ∀ j, j < actionCount (full.take k) → s.answerAt j = .ok)
    (hfail' : s.answerAt (actionCount (full.take k)) = .fail) : evs = full.take k ∧ b = a := by
  obtain ⟨htake, hn⟩ := getElem?_of_prefix hpre
  rw [← htake] at hok hfail
  rcases lt_trichotomy evs.length k with hlt | heq | hgt
  · rw [hok' _ (actionCount_take_lt hn hlt)] at hfail
    cases hfail
  · subst heq
    rw [hk] at hn
    exact ⟨htake.symm, by simpa using hn.symm⟩
  · rw [hok _ (actionCount_take_lt hk hgt)] at hfail'
    cases hfail'

theorem not_fail_of_reached {s : State} {full : List Event} {k : Nat} {a : Action} (hr : s.reached full)
    (hk : full[k]? = some (.did a)) (hfail : s.answerAt (actionCount (full.take k)) = .fail) : False := by
  have hlt := actionCount_take_lt hk (List.getElem?_eq_some_iff.mp hk).choose
  rw [List.take_length] at hlt
  rw [hr.1 _ hlt] at hfail
  cases hfail

theorem marksOf_eq_true {i : Instr} (h : ∀ pct, i ≠ .bright pct) : marksOf i = true := by
  cases i
  case bright pct => exact absurd rfl (h pct)
  all_goals rfl

/-- R258: every request but BRIGHT fails in FAILED. -/
theorem FailedAt.lc_failed {i : Instr} {s t : State} {before : List SeqOp} {item : SeqOp} {evs : List Event} {a : Action}
    (hf : FailedAt i s t before item evs a) (hm : marksOf i = true) : t.lc = .failed := by
  rw [hf.lc, if_pos hm]

/-- R258: BRIGHT's failure writes no register, since its action is its first item. -/
theorem FailedAt.bright {s t : State} {pct : Half} {before rest : List SeqOp} {item : SeqOp} {evs : List Event}
    {a : Action} (hf : FailedAt (.bright pct) s t before item evs a)
    (hp : programOf (.bright pct) s = .ok (before ++ item :: rest)) : before = [] ∧ t.lc = s.lc ∧ t.blPct = s.blPct := by
  obtain rfl := program_stopped_bright rfl rfl hp hf.stopped
  exact ⟨rfl, hf.lc, hf.blPct⟩

/-- What a controller command can do when block reset does not strike it (R117, R253). -/
theorem exec_command_uncut_cases {i : Instr} {s t : State} (hr : isRequest i = false) (hc : s.uncut (fullTrace i s))
    (h : exec i s = .next t) :
    (s.reached (fullTrace i s) ∧ t = s.after (fullTrace i s)) ∨
    (∃ evs a, evs ++ [.did a] <+: fullTrace i s ∧ (∀ j, j < actionCount evs → s.answerAt j = .ok) ∧
      s.answerAt (actionCount evs) = .fail ∧ t = { (s.withLc .failed).answered .transportError (evs ++ [.failed a]) with
        rstLvl := lastLevel .rst s.rstLvl evs, dcLvl := lastLevel .dc s.dcLvl evs }) := by
  obtain ⟨op, ps, henc, htrace⟩ := wire_of hr
  rw [htrace] at hc ⊢
  rcases exec_command_cases i s t op ps henc h with hdone | ⟨evs, a, hpre, hre, hfail, rfl⟩ | ⟨evs, -, -, hcut, hlen, -⟩
  · exact .inl hdone
  · refine .inr ⟨evs, a, hpre, hre.1, hfail, ?_⟩
    have hlen := hpre.length_le
    rw [respond_uncut (uncut_sub_ne hc (by simpa using hlen))]
    simp [State.answered, State.after, State.withLc, lastLevel_append, lastLevel]
  · exact absurd (hc _ hcut) (by omega)

/-- Settles O28: the run stops at an action that is the first to fail, and only one is. -/
theorem aFailedActionEndsTheRequest : Obligations.AFailedActionEndsTheRequest := by
  unfold Obligations.AFailedActionEndsTheRequest
  intro i s k a hk hc hok hfail
  obtain ⟨t, h⟩ := exec_next i s
  refine ⟨t, h, ?_⟩
  cases hr : isRequest i with
  | true =>
    rcases exec_uncut_cases i s t hr hc h with ⟨e, -, hnil, -⟩ | ⟨items, -, hre, -⟩ |
      ⟨before, item, rest, evs, b, hp, hf⟩
    · rw [hnil] at hk
      cases hk
    · exact (not_fail_of_reached hre hk hfail).elim
    obtain ⟨rfl, rfl⟩ := firstFailure_unique hf.isPrefix hf.answers hf.fails hk hok hfail
    refine ⟨hf.trace, hf.responses, hf.busy, hf.seq, fun hnb => hf.lc_failed (marksOf_eq_true hnb), fun pct hb => ?_,
      hf.rstLvl, hf.dcLvl⟩
    subst hb
    exact (hf.bright hp).2
  | false =>
    rcases exec_command_uncut_cases hr hc h with ⟨hre, -⟩ | ⟨evs, b, hpre, hok', hfail', rfl⟩
    · exact (not_fail_of_reached hre hk hfail).elim
    obtain ⟨rfl, rfl⟩ := firstFailure_unique hpre hok' hfail' hk hok hfail
    refine ⟨by simp, rfl, rfl, rfl, fun _ => rfl, fun pct hb => ?_, rfl, rfl⟩
    subst hb
    cases hr

end Sys2Proof.Machine
end

section
/-! The state by the status answered (R251 to R258): without block reset a request ends in one of three ways, each with
its own statuses. -/

namespace Sys2Proof.Machine

/-! ### Which check fails -/

theorem selectPath_eq_none_iff {cfgW cfgH cols rows : Dim} :
    selectPath cfgW cfgH cols rows = none ↔ ¬ (cols = cfgW ∧ rows = cfgH) ∧ ¬ (cols = cfgH ∧ rows = cfgW) := by
  unfold selectPath
  by_cases hA : cols = cfgW ∧ rows = cfgH
  · rw [if_pos hA]
    exact iff_of_false (by simp) fun h => h.1 hA
  by_cases hB : cols = cfgH ∧ rows = cfgW
  · rw [if_neg hA, if_pos hB]
    exact iff_of_false (by simp) fun h => h.2 hB
  · rw [if_neg hA, if_neg hB]
    exact iff_of_true rfl ⟨hA, hB⟩

section
variable {i : Instr} {s : State} (hr : isRequest i = true)
include hr

/-- A check raises one of three errors. -/
theorem status_of_programOf_error {e : Status} (h : programOf i s = .error e) :
    e ≠ .ok ∧ e ≠ .transportError ∧ e ≠ .illegalRequest := by
  rcases program_error i s e hr h with ⟨_, _, _, -, -, rfl⟩ | ⟨-, -, rfl⟩ | ⟨_, _, -, -, -, rfl⟩ <;> decide

/-- R252. -/
theorem programOf_eq_configurationError_iff : programOf i s = .error .configurationError ↔
    ∃ o width height, i = .init o width height ∧ (width = 0 ∨ height = 0) := by
  constructor
  · intro h
    rcases program_error i s _ hr h with ⟨o, w, ht, rfl, hz, -⟩ | ⟨-, -, he⟩ | ⟨_, _, -, -, -, he⟩
    · exact ⟨o, w, ht, rfl, hz⟩
    · cases he
    · cases he
  · rintro ⟨o, w, ht, rfl, hz⟩
    exact programOf_init_zero hz

/-- R255. -/
theorem programOf_eq_prematureOperationError_iff : programOf i s = .error .prematureOperationError ↔
    (i = .clear ∨ ∃ c r, i = .blit c r) ∧ s.lc ≠ .ready := by
  constructor
  · intro h
    rcases program_error i s _ hr h with ⟨_, _, _, -, -, he⟩ | ⟨hi, hl, -⟩ | ⟨_, _, -, -, -, he⟩
    · cases he
    · exact ⟨hi, hl⟩
    · cases he
  · rintro ⟨rfl | ⟨c, r, rfl⟩, hl⟩
    · exact programOf_clear_not hl
    · exact programOf_blit_not hl

/-- R254, R257: the shape is checked in READY alone. -/
theorem programOf_eq_invalidBufferShapeError_iff : programOf i s = .error .invalidBufferShapeError ↔
    ∃ c r, i = .blit c r ∧ s.lc = .ready ∧ ¬ (c = s.cfgW ∧ r = s.cfgH) ∧ ¬ (c = s.cfgH ∧ r = s.cfgW) := by
  constructor
  · intro h
    rcases program_error i s _ hr h with ⟨_, _, _, -, -, he⟩ | ⟨-, -, he⟩ | ⟨c, r, hi, hl, hpath, -⟩
    · cases he
    · cases he
    · exact ⟨c, r, hi, hl, selectPath_eq_none_iff.mp hpath⟩
  · rintro ⟨c, r, rfl, hl, hpath⟩
    rw [programOf_blit hl, selectPath_eq_none_iff.mpr hpath]

end

/-- A drawing request that passes its checks is one in READY. -/
theorem ready_of_programOf_ok {i : Instr} {s : State} {items : List SeqOp} (hi : i = .clear ∨ ∃ c r, i = .blit c r)
    (hp : programOf i s = .ok items) : s.lc = .ready := by
  by_contra hl
  obtain rfl | ⟨c, r, rfl⟩ := hi
  · rw [programOf_clear_not hl] at hp
    cases hp
  · rw [programOf_blit_not hl] at hp
    cases hp

/-! ### How a request ends -/

/-- Settles O30: a check answers its error, a whole program OK, a failed action TransportError. -/
theorem everyRequestAnswersOnce : Obligations.EveryRequestAnswersOnce := by
  unfold Obligations.EveryRequestAnswersOnce
  intro i s t hr hc h
  rcases exec_uncut_cases i s t hr hc h with ⟨e, hp, -, rfl⟩ | ⟨items, -, -, rfl⟩ | ⟨before, item, rest, evs, a, -, hf⟩
  · exact ⟨rfl, e, rfl, fun he => absurd he (status_of_programOf_error hr hp).1⟩
  · exact ⟨rfl, .ok, by simp, fun _ => by simp⟩
  · exact ⟨hf.busy, .transportError, hf.responses, nofun⟩

/-- The three ways by the status they answer. -/
theorem exec_uncut_status {i : Instr} {s t : State} {e : Status} (hr : isRequest i = true) (hc : s.uncut (fullTrace i s))
    (h : exec i s = .next t) (hresp : t.responses = s.responses ++ [e]) :
    (programOf i s = .error e ∧ t = s.answered e []) ∨
    (e = .ok ∧ ∃ items, programOf i s = .ok items ∧ t = { (programRegs i s).answered .ok (fullTrace i s) with
      rstLvl := lastLevel .rst s.rstLvl (fullTrace i s), dcLvl := lastLevel .dc s.dcLvl (fullTrace i s) }) ∨
    (e = .transportError ∧ ∃ before item rest evs a, programOf i s = .ok (before ++ item :: rest) ∧
      FailedAt i s t before item evs a) := by
  have hstatus {e' : Status} (h' : t.responses = s.responses ++ [e']) : e = e' := by
    simpa using hresp.symm.trans h'
  rcases exec_uncut_cases i s t hr hc h with ⟨e', hp, -, ht⟩ | ⟨items, hp, -, ht⟩ | ⟨before, item, rest, evs, a, hp, hf⟩
  · obtain rfl := hstatus (e' := e') (by rw [ht, answered_responses])
    exact .inl ⟨hp, ht⟩
  · exact .inr (.inl ⟨hstatus (by simp [ht]), items, hp, ht⟩)
  · exact .inr (.inr ⟨hstatus hf.responses, before, item, rest, evs, a, hp, hf⟩)

/-- Settles O31: only a failed action answers TransportError, and only checks answer the other errors. -/
theorem errorEffectByStatus : Obligations.ErrorEffectByStatus := by
  unfold Obligations.ErrorEffectByStatus
  intro i s t e hr hc h hresp
  rcases exec_uncut_status hr hc h hresp with ⟨hp, ht⟩ | ⟨rfl, -⟩ | ⟨rfl, before, item, rest, evs, a, hp, hf⟩
  · exact ⟨fun he => absurd he (status_of_programOf_error hr hp).2.1, fun _ _ => ht⟩
  · exact ⟨nofun, fun he => absurd rfl he⟩
  · refine ⟨fun _ => ⟨?registers, evs, a, hf.trace, hf.isPrefix, hf.rstLvl, hf.dcLvl⟩, fun _ he => absurd rfl he⟩
    by_cases hb : ∃ pct, i = .bright pct
    · obtain ⟨pct, rfl⟩ := hb
      exact .inl ⟨pct, rfl, (hf.bright hp).2⟩
    · have hnb : ∀ pct, i ≠ .bright pct := fun pct hi => hb ⟨pct, hi⟩
      exact .inr ⟨hnb, hf.lc_failed (marksOf_eq_true hnb)⟩

/-- An error of a check is answered exactly where the program is that error. -/
theorem status_eq_iff_programOf {i : Instr} {s t : State} {e c : Status} (hr : isRequest i = true)
    (hc : s.uncut (fullTrace i s)) (h : exec i s = .next t) (hresp : t.responses = s.responses ++ [e])
    (hok : c ≠ .ok) (htr : c ≠ .transportError) : e = c ↔ programOf i s = .error c := by
  rcases exec_uncut_status hr hc h hresp with ⟨hp, -⟩ | ⟨rfl, items, hp, -⟩ | ⟨rfl, _, _, _, _, _, hp, -⟩
  · rw [hp, Except.error.injEq]
  · exact iff_of_false hok.symm (by simp [hp])
  · exact iff_of_false htr.symm (by simp [hp])

/-- Settles O32: each status of a check by the equivalence of that check. -/
theorem checksComeInOrder : Obligations.ChecksComeInOrder := by
  unfold Obligations.ChecksComeInOrder
  intro i s t hr hc h
  obtain ⟨-, e, hresp, -⟩ := everyRequestAnswersOnce i s t hr hc h
  have hstatus (c : Status) (hok : c ≠ .ok) (htr : c ≠ .transportError) := status_eq_iff_programOf hr hc h hresp hok htr
  refine ⟨e, hresp, ?_, ?_, ?_, ?_⟩
  · rw [Ne, hstatus .illegalRequest (by decide) (by decide)]
    exact fun hp => (status_of_programOf_error hr hp).2.2 rfl
  · rw [hstatus .configurationError (by decide) (by decide), programOf_eq_configurationError_iff hr]
  · rw [hstatus .prematureOperationError (by decide) (by decide),
      programOf_eq_prematureOperationError_iff hr]
  · rw [hstatus .invalidBufferShapeError (by decide) (by decide),
      programOf_eq_invalidBufferShapeError_iff hr]

/-- Settles O45: by the way the request ends; each program's own lifecycle write is its last word if all goes
through. -/
theorem lifecycleTransitions : Obligations.LifecycleTransitions := by
  unfold Obligations.LifecycleTransitions
  intro i s t e hr hc h hresp
  have hends := exec_uncut_status hr hc h hresp
  refine ⟨?reset, ?init, ?bright, ?drawing⟩
  case reset =>
    rintro rfl
    rcases hends with ⟨hp, -⟩ | ⟨he, items, -, rfl⟩ | ⟨he, _, _, _, _, _, -, hf⟩
    · cases hp
    · exact .inl ⟨he, rfl⟩
    · exact .inr ⟨he, hf.lc_failed rfl⟩
  case init =>
    rintro o width height rfl
    rcases hends with ⟨hp, rfl⟩ | ⟨he, items, -, rfl⟩ | ⟨he, _, _, _, _, _, -, hf⟩
    · rcases program_error _ s e hr hp with ⟨_, _, _, -, -, he⟩ | ⟨hi | ⟨_, _, hi⟩, -, -⟩ | ⟨_, _, hi, -, -, -⟩
      · exact .inr (.inr ⟨he, rfl⟩)
      all_goals cases hi
    · exact .inl ⟨he, rfl⟩
    · exact .inr (.inl ⟨he, hf.lc_failed rfl⟩)
  case bright =>
    rintro pct rfl
    rcases hends with ⟨hp, -⟩ | ⟨he, items, -, rfl⟩ | ⟨he, _, _, _, _, _, hp, hf⟩
    · cases hp
    · exact ⟨.inl he, rfl⟩
    · exact ⟨.inr he, (hf.bright hp).2.1⟩
  case drawing =>
    intro hi
    rcases hends with ⟨hp, rfl⟩ | ⟨he, items, hp, rfl⟩ | ⟨he, _, _, _, _, _, -, hf⟩
    · refine .inr (.inr ⟨?_, rfl⟩)
      rcases program_error i s e hr hp with ⟨_, _, _, rfl, -, -⟩ | ⟨-, -, he⟩ | ⟨_, _, -, -, -, he⟩
      · obtain hi | ⟨_, _, hi⟩ := hi <;> cases hi
      · exact .inl he
      · exact .inr he
    · have hl := ready_of_programOf_ok hi hp
      refine .inl ⟨he, hl, ?_⟩
      obtain rfl | ⟨c, r, rfl⟩ := hi <;> exact hl
    · refine .inr (.inl ⟨he, hf.lc_failed ?_⟩)
      obtain rfl | ⟨c, r, rfl⟩ := hi <;> rfl

/-! ### Block reset -/

/-- Settles O33: the block strikes where it is told to, since no action before that point fails; at the end of the
trace it strikes before the response. -/
theorem blockResetCutsARequestShort : Obligations.BlockResetCutsARequestShort := by
  unfold Obligations.BlockResetCutsARequestShort
  intro i s k hr hcut hk hok
  obtain ⟨t, h⟩ := exec_next i s
  suffices hstruck : ∃ u, t = blockReset u ∧ u.trace = s.trace ++ (fullTrace i s).take k ∧
      u.responses = s.responses ∧ u.static = s.static ∧ u.port = s.port by
    obtain ⟨u, rfl, htrace, hresp, hstatic, hport⟩ := hstruck
    exact ⟨_, h, blockReset_atReset u, htrace, hresp, hstatic, hport⟩
  rcases exec_request_cases i s t hr h with ⟨e, hp, rfl⟩ | ⟨items, hp, hrun⟩
  · have hnil := fullTrace_of_error i s e hr hp
    obtain rfl : k = 0 := by simpa [hnil] using hk
    exact ⟨_, respond_cut hcut, by simp, rfl, rfl, rfl⟩
  rcases hrun with ⟨r, hre, rfl⟩ | ⟨before, item, rest, pre, a, post, rfl, hm, hre, hne, hfail, -⟩ |
    ⟨before, item, rest, pre, m, post, rfl, hm, -, hcut', rfl⟩
  · obtain rfl : k = (fullTrace i s).length := le_antisymm hk (hre.2 k hcut)
    refine ⟨_, respond_cut ?_, ?_, ?_, ?_, ?_⟩ <;> simp [programEnd, hcut]
  · obtain ⟨htake, hn⟩ := getElem?_of_prefix (stopped_prefix hr hp hm)
    have hlt := lt_of_le_of_ne (hre.2 k hcut) fun heq => hne (heq ▸ hcut)
    have hans := hok _ (htake ▸ actionCount_take_lt hn hlt)
    rw [hfail] at hans
    cases hans
  · obtain ⟨htake, -⟩ := getElem?_of_prefix (stopped_prefix hr hp hm)
    obtain rfl : k = _ := Option.some.inj (hcut.symm.trans hcut')
    exact ⟨_, rfl, by rw [htake]; simp, by simp, by simp, by simp⟩

end Sys2Proof.Machine
end

section
/-! Frames: which registers a request or a controller command can write, however it ends without block reset. A request
has performed some of its program's items and some of its full trace, so it has written only what an item it can have
writes. -/

namespace Sys2Proof.Machine

/-! ### Which items write the pins -/

theorem exists_of_mem_itemsEvents {items : List SeqOp} {s : State} {e : Event} (h : e ∈ itemsEvents items s) :
    ∃ item ∈ items, ∃ u, e ∈ itemEvents item u := by
  induction items generalizing s with
  | nil => cases h
  | cons item rest ih =>
    obtain h | h := List.mem_append.mp h
    · exact ⟨item, List.mem_cons_self, s, h⟩
    · obtain ⟨item', hmem, hu⟩ := ih h
      exact ⟨item', List.mem_cons_of_mem _ hmem, hu⟩

theorem rst_not_mem_traceCmd (m : Level) (op : Byte) (ps : List Byte) : .did (.pin .rst m) ∉ traceCmd op ps := by
  simp [traceCmd, traceC, traceD]

/-- A pin event of RST is the item that asks for it. -/
theorem eq_rst_of_mem_itemEvents {item : SeqOp} {u : State} {m : Level} (h : .did (.pin .rst m) ∈ itemEvents item u) :
    item = .rst m := by
  cases item
  case rst l =>
    obtain rfl : m = l := by simpa using h
    rfl
  case cmd op ps =>
    rw [itemEvents_cmd] at h
    exact absurd h (rst_not_mem_traceCmd m op ps)
  all_goals simp [traceBlock] at h

/-- Only commands and the pixel block write DC. -/
theorem command_of_dc_mem_itemEvents {item : SeqOp} {u : State} {m : Level}
    (h : .did (.pin .dc m) ∈ itemEvents item u) : (∃ op ps, item = .cmd op ps) ∨ item = .stream := by
  cases item
  case cmd op ps => exact .inl ⟨op, ps, rfl⟩
  case stream => exact .inr rfl
  all_goals simp at h

/-! ### What a request has performed when it ends -/

theorem programRegs_withBusy (i : Instr) (s : State) (b : Bool) :
    programRegs i (s.withBusy b) = (programRegs i s).withBusy b := by cases i <;> rfl

/-- A request that ended without block reset has performed the items `done` whole, and in all the events `evs`. -/
structure Ended (i : Instr) (s t : State) (done : List SeqOp) (evs : List Event) : Prop where
  lc : t.lc = (itemsNext done (s.withBusy true)).lc ∨ (marksOf i = true ∧ t.lc = .failed)
  cfgOrient : t.cfgOrient = (itemsNext done (s.withBusy true)).cfgOrient
  cfgW : t.cfgW = (itemsNext done (s.withBusy true)).cfgW
  cfgH : t.cfgH = (itemsNext done (s.withBusy true)).cfgH
  blPct : t.blPct = (itemsNext done (s.withBusy true)).blPct
  pixelDraws : t.pixelDraws = (itemsNext done (s.withBusy true)).pixelDraws
  rstLvl : t.rstLvl = lastLevel .rst s.rstLvl evs
  dcLvl : t.dcLvl = lastLevel .dc s.dcLvl evs
  static : t.static = s.static
  port : t.port = s.port
  performed : ∀ item ∈ done, Performs i item
  emitted : ∀ e ∈ evs, ∃ item, Performs i item ∧ ∃ u, e ∈ itemEvents item u

theorem exec_uncut_ended {i : Instr} {s t : State} (hr : isRequest i = true) (hc : s.uncut (fullTrace i s))
    (h : exec i s = .next t) : ∃ done evs, Ended i s t done evs := by
  obtain ⟨hstatic, hport⟩ := exec_static i s t h
  have hemitted {items : List SeqOp} (hp : programOf i s = .ok items) {e : Event} (he : e ∈ fullTrace i s) :
      ∃ item, Performs i item ∧ ∃ u, e ∈ itemEvents item u := by
    rw [← (program_spec i s items hr hp).1] at he
    obtain ⟨item, hmem, hu⟩ := exists_of_mem_itemsEvents he
    exact ⟨item, performs_of_mem_programOf hr hp hmem, hu⟩
  rcases exec_uncut_cases i s t hr hc h with ⟨e, -, -, rfl⟩ | ⟨items, hp, -, rfl⟩ | ⟨before, item, rest, evs, a, hp, hf⟩
  · exact ⟨[], [], .inl rfl, rfl, rfl, rfl, rfl, rfl, rfl, rfl, hstatic, hport, by simp, by simp⟩
  · have hend := (program_spec i (s.withBusy true) items hr (by rwa [programOf_withBusy])).2
    rw [programEnd, programRegs_withBusy] at hend
    refine ⟨items, fullTrace i s, ?_, ?_, ?_, ?_, ?_, ?_, rfl, rfl, hstatic, hport,
      fun _ hm => performs_of_mem_programOf hr hp hm, fun _ he => hemitted hp he⟩ <;> simp [hend]
  · refine ⟨before, evs, ?_, hf.cfgOrient, hf.cfgW, hf.cfgH, hf.blPct, hf.pixelDraws, hf.rstLvl, hf.dcLvl, hstatic, hport,
      fun _ hm => performs_of_mem_programOf hr hp (List.mem_append_left _ hm), fun e he => hemitted hp ?_⟩
    · have hlc := hf.lc
      split at hlc
      next hm => exact .inr ⟨hm, hlc⟩
      next => exact .inl hlc
    · exact (hf.isPrefix.sublist.subset (List.mem_append_left _ he))

section
variable {i : Instr} {s t : State} {done : List SeqOp} {evs : List Event} (hE : Ended i s t done evs)
include hE

theorem Ended.cfg_kept (hno : ∀ o w h, ¬ Performs i (.setCfg o w h)) :
    t.cfgOrient = s.cfgOrient ∧ t.cfgW = s.cfgW ∧ t.cfgH = s.cfgH := by
  rw [hE.cfgOrient, hE.cfgW, hE.cfgH]
  exact itemsNext_cfg done (s.withBusy true) fun o w h hm => hno o w h (hE.performed _ hm)

theorem Ended.blPct_kept (hno : ∀ q, ¬ Performs i (.setBl q)) : t.blPct = s.blPct := by
  rw [hE.blPct]
  exact itemsNext_blPct done (s.withBusy true) fun q hm => hno q (hE.performed _ hm)

theorem Ended.pixelDraws_kept (hno : ∀ n, ¬ Performs i (.encode n)) : t.pixelDraws = s.pixelDraws := by
  rw [hE.pixelDraws]
  exact itemsNext_pixelDraws done (s.withBusy true) fun n hm => hno n (hE.performed _ hm)

theorem Ended.lc_kept (hno : ∀ l, ¬ Performs i (.setLc l)) : t.lc = s.lc ∨ (marksOf i = true ∧ t.lc = .failed) := by
  have hlc := itemsNext_lc done (s.withBusy true) fun l hm => hno l (hE.performed _ hm)
  exact hE.lc.imp_left fun h => h.trans hlc

theorem Ended.rstLvl_kept (hno : ∀ l, ¬ Performs i (.rst l)) : t.rstLvl = s.rstLvl := by
  rw [hE.rstLvl]
  refine lastLevel_of_not_mem .rst _ evs fun m hm => ?_
  obtain ⟨item, hperf, u, hu⟩ := hE.emitted _ hm
  exact hno m (eq_rst_of_mem_itemEvents hu ▸ hperf)

theorem Ended.dcLvl_kept (hcmd : ∀ op ps, ¬ Performs i (.cmd op ps)) (hstream : ¬ Performs i .stream) :
    t.dcLvl = s.dcLvl := by
  rw [hE.dcLvl]
  refine lastLevel_of_not_mem .dc _ evs fun m hm => ?_
  obtain ⟨item, hperf, u, hu⟩ := hE.emitted _ hm
  obtain ⟨op, ps, rfl⟩ | rfl := command_of_dc_mem_itemEvents hu
  · exact hcmd op ps hperf
  · exact hstream hperf

end

/-! ### The requests -/

/-- Settles O34: RESET's items write the lifecycle and RST. -/
theorem frameOfReset : Obligations.FrameOfReset := by
  unfold Obligations.FrameOfReset
  intro s t hc h
  obtain ⟨done, evs, hE⟩ := exec_uncut_ended rfl hc h
  obtain ⟨ho, hw, hh⟩ := hE.cfg_kept nofun
  exact ⟨ho, hw, hh, hE.blPct_kept nofun, hE.dcLvl_kept nofun nofun, hE.static, hE.port, hE.pixelDraws_kept nofun⟩

/-- Settles O36: BRIGHT's items write the duty, and its failure is not marked. -/
theorem frameOfBright : Obligations.FrameOfBright := by
  unfold Obligations.FrameOfBright
  intro s t pct hc h
  obtain ⟨done, evs, hE⟩ := exec_uncut_ended rfl hc h
  obtain ⟨ho, hw, hh⟩ := hE.cfg_kept nofun
  have hlc : t.lc = s.lc := (hE.lc_kept nofun).resolve_right fun hm => Bool.false_ne_true hm.1
  exact ⟨hlc, ho, hw, hh, hE.rstLvl_kept nofun, hE.dcLvl_kept nofun nofun, hE.static, hE.port, hE.pixelDraws_kept nofun⟩

/-- Settles O37: the drawing requests' items form the buffer and write DC. -/
theorem frameOfClearAndBlit : Obligations.FrameOfClearAndBlit := by
  unfold Obligations.FrameOfClearAndBlit
  intro s t i hi hc h
  obtain rfl | ⟨cols, rows, rfl⟩ := hi
  all_goals
    obtain ⟨done, evs, hE⟩ := exec_uncut_ended rfl hc h
    obtain ⟨ho, hw, hh⟩ := hE.cfg_kept nofun
    exact ⟨ho, hw, hh, hE.blPct_kept nofun, hE.rstLvl_kept nofun, hE.static, hE.port,
      (hE.lc_kept nofun).imp_right And.right⟩

/-! ### The controller commands -/

/-- Settles O38: a command's events write DC, and its failure the lifecycle. -/
theorem frameOfCommands : Obligations.FrameOfCommands := by
  unfold Obligations.FrameOfCommands
  intro s t i hr hc h
  have hrst {evs : List Event} (hsub : evs ⊆ fullTrace i s) : lastLevel .rst s.rstLvl evs = s.rstLvl := by
    obtain ⟨op, ps, -, htrace⟩ := wire_of hr
    rw [htrace] at hsub
    exact lastLevel_of_not_mem .rst _ evs fun m hm => rst_not_mem_traceCmd m op ps (hsub hm)
  rcases exec_command_uncut_cases hr hc h with ⟨-, rfl⟩ | ⟨evs, a, hpre, -, -, rfl⟩
  · exact ⟨rfl, rfl, rfl, rfl, hrst (List.Subset.refl _), rfl, rfl, rfl, .inl rfl⟩
  · have hsub : evs ⊆ fullTrace i s := ((List.prefix_append _ _).trans hpre).subset
    exact ⟨rfl, rfl, rfl, rfl, hrst hsub, rfl, rfl, rfl, .inr rfl⟩

end Sys2Proof.Machine
end

section
/-! The frame of INIT (R173, R258): the stored configuration is written right after hardReset, so whether a failed INIT
has written it can be read off its trace. -/

namespace Sys2Proof.Machine

/-- INIT's items after the configuration is written. -/
def initTail (c : Config) : List SeqOp :=
  .setLc .initializing :: initOps.map (fun op => .cmd (initOpcode op) (initBytes c.initParams op)) ++
    [.wait c.tWakeMs, .cmd 0x29 [], .setLc .ready]

theorem programOf_init_eq {s : State} {o : Orientation} {w h : Dim} (hz : ¬ (w = 0 ∨ h = 0)) :
    programOf (.init o w h) s =
      .ok ((.setLc .resetting :: hardReset s.static) ++ .setCfg o w h :: initTail s.static) := by
  rw [programOf_init hz]
  simp [initTail]

/-- INIT's events after hardReset. -/
def initTailTrace (c : Config) : List Event :=
  initOps.flatMap (fun op => traceCmd (initOpcode op) (initBytes c.initParams op)) ++ [.waited c.tWakeMs] ++ traceC 0x29

theorem traceInit_eq (c : Config) : traceInit c = traceHardReset c ++ initTailTrace c := by
  simp only [traceInit, initTailTrace, List.append_assoc]

theorem rst_not_mem_initTailTrace (c : Config) (m : Level) : .did (.pin .rst m) ∉ initTailTrace c := by
  simp [initTailTrace, rst_not_mem_traceCmd, traceC]

/-- A failed INIT stopped inside hardReset, or after the configuration was written. -/
theorem init_stopped {s u : State} {o : Orientation} {w h : Dim} {before rest : List SeqOp} {item : SeqOp}
    (hp : programOf (.init o w h) s = .ok (before ++ item :: rest)) (hne : itemMicros item u ≠ []) :
    before ++ [item] <+: .setLc .resetting :: hardReset s.static ∨
    ∃ tail, before = (.setLc .resetting :: hardReset s.static) ++ .setCfg o w h :: tail ∧ tail ⊆ initTail s.static := by
  rw [programOf_init_eq (nonzero_of_programOf_init hp)] at hp
  rcases List.append_eq_append_iff.mp (Except.ok.inj hp) with ⟨mid, hbefore, hmid⟩ | ⟨mid, hreset, hmid⟩
  · cases mid with
    | nil =>
      obtain ⟨rfl, -⟩ := List.cons.inj hmid
      exact absurd rfl hne
    | cons x tail =>
      obtain ⟨rfl, htail⟩ := List.cons.inj hmid
      exact .inr ⟨tail, hbefore, htail ▸ List.subset_append_left _ _⟩
  · cases mid with
    | nil =>
      obtain ⟨rfl, -⟩ := List.cons.inj hmid
      exact absurd rfl hne
    | cons x tail =>
      obtain ⟨rfl, -⟩ := List.cons.inj hmid
      exact .inl ⟨tail, by rw [hreset, List.append_assoc]; rfl⟩

/-- Events that stopped at an action of a list have not completed it. -/
theorem not_completed {full evs : List Event} {a : Action} (h : evs ++ [.did a] <+: full) :
    ¬ full <+: evs ++ [.failed a] := by
  intro h'
  have hlen := h.length_le
  have hlen' := h'.length_le
  simp only [List.length_append, List.length_singleton] at hlen hlen'
  have heq := (h.eq_of_length (by simp; omega)).trans (h'.eq_of_length (by simp; omega))
  simp at heq

theorem itemsEvents_prefix {a b : List SeqOp} (s : State) (h : a <+: b) : itemsEvents a s <+: itemsEvents b s := by
  obtain ⟨rest, rfl⟩ := h
  exact ⟨_, (itemsEvents_append a rest s).symm⟩

theorem itemsEvents_hardReset (c : Config) (s : State) :
    itemsEvents (.setLc .resetting :: hardReset c) s = traceHardReset c := by
  rw [itemsEvents, itemEvents_setLc, (itemsNext_hardReset c _).2, List.nil_append]

section
variable {s t : State} {o : Orientation} {w h : Dim} {before : List SeqOp} {item : SeqOp} {evs : List Event} {a : Action}
  (hf : FailedAt (.init o w h) s t before item evs a)
include hf

/-- Inside hardReset neither the configuration nor DC is written, and its last wait has not come. -/
theorem FailedAt.init_inside_hardReset (hin : before ++ [item] <+: .setLc .resetting :: hardReset s.static) :
    ¬ traceHardReset s.static <+: evs ++ [.failed a] ∧
    t.cfgOrient = s.cfgOrient ∧ t.cfgW = s.cfgW ∧ t.cfgH = s.cfgH ∧ t.dcLvl = s.dcLvl := by
  have hevs : evs ++ [.did a] <+: traceHardReset s.static := by
    have hle := hf.within.trans (itemsEvents_prefix (s.withBusy true) hin)
    rwa [itemsEvents_hardReset] at hle
  obtain ⟨ho, hw, hh⟩ := itemsNext_cfg before (s.withBusy true) fun o w h hm => by
    have hm' := hin.subset (List.mem_append_left _ hm)
    simp [hardReset] at hm'
  have hdc : lastLevel .dc s.dcLvl evs = s.dcLvl := lastLevel_of_not_mem .dc _ evs fun m hm => by
    have hm' := hevs.subset (List.mem_append_left _ hm)
    simp [traceHardReset] at hm'
  exact ⟨not_completed hevs, hf.cfgOrient.trans ho, hf.cfgW.trans hw, hf.cfgH.trans hh, hf.dcLvl.trans hdc⟩

/-- After the configuration write hardReset is in the trace, and no item writes RST or the configuration again. -/
theorem FailedAt.init_after_setCfg {tail : List SeqOp}
    (hbefore : before = (.setLc .resetting :: hardReset s.static) ++ .setCfg o w h :: tail)
    (htail : tail ⊆ initTail s.static) (hz : ¬ (w = 0 ∨ h = 0)) :
    traceHardReset s.static <+: evs ∧ t.cfgOrient = o ∧ t.cfgW = w ∧ t.cfgH = h ∧ t.rstLvl = .high := by
  have hevents : traceHardReset s.static <+: itemsEvents before (s.withBusy true) := by
    rw [hbefore, itemsEvents_append, itemsEvents_hardReset]
    exact List.prefix_append _ _
  have hreset := hevents.trans hf.begun
  obtain ⟨late, rfl⟩ := hreset
  have hlate : late ++ [.did a] <+: initTailTrace s.static := by
    have hle := hf.isPrefix
    rwa [fullTrace_init hz, traceInit_eq, List.append_assoc, List.prefix_append_right_inj] at hle
  have hrst : lastLevel .rst .high late = .high := lastLevel_of_not_mem .rst _ late fun m hm =>
    rst_not_mem_initTailTrace s.static m (hlate.subset (List.mem_append_left _ hm))
  have hnext : itemsNext before (s.withBusy true) = itemsNext tail
      (itemNext (.setCfg o w h) (itemsNext (.setLc .resetting :: hardReset s.static) (s.withBusy true))) := by
    rw [hbefore, itemsNext_append, itemsNext]
  obtain ⟨ho, hw, hh⟩ := itemsNext_cfg tail
    (itemNext (.setCfg o w h) (itemsNext (.setLc .resetting :: hardReset s.static) (s.withBusy true)))
    fun o w h hm => by simpa [initTail] using htail hm
  rw [← hnext, itemNext_setCfg] at ho hw hh
  refine ⟨List.prefix_append _ _, hf.cfgOrient.trans ho, hf.cfgW.trans hw, hf.cfgH.trans hh, ?_⟩
  rw [hf.rstLvl, lastLevel_append]
  exact hrst

end

/-- Settles O35: a check performs nothing, a whole INIT everything, and a failed one stopped before the configuration
write, inside hardReset, or after it. -/
theorem frameOfInit : Obligations.FrameOfInit := by
  unfold Obligations.FrameOfInit
  intro s t o w h hc hexec
  obtain ⟨done, evs, hE⟩ := exec_uncut_ended rfl hc hexec
  refine ⟨hE.blPct_kept nofun, hE.static, hE.port, hE.pixelDraws_kept nofun, ?_⟩
  rcases exec_uncut_cases _ s t rfl hc hexec with ⟨e, -, -, rfl⟩ | ⟨items, hp, -, rfl⟩ |
    ⟨before, item, rest, evs, a, hp, hf⟩
  · have hnot : ¬ s.trace ++ traceHardReset s.static <+: s.trace ++ [] := by
      rw [List.prefix_append_right_inj]
      exact fun hpre => absurd hpre.length_le (by simp [traceHardReset])
    exact ⟨fun _ => ⟨rfl, rfl, rfl, rfl⟩, fun hpre => absurd hpre hnot⟩
  · have hz := nonzero_of_programOf_init hp
    have hpre : s.trace ++ traceHardReset s.static <+: s.trace ++ fullTrace (.init o w h) s := by
      rw [fullTrace_init hz, traceInit_eq, List.prefix_append_right_inj]
      exact List.prefix_append _ _
    refine ⟨fun hnot => absurd hpre hnot, fun _ => ⟨rfl, rfl, rfl, ?_⟩⟩
    rw [fullTrace_init hz]
    exact (lastLevel_traceInit s).1
  · have hz := nonzero_of_programOf_init hp
    rw [hf.trace, List.append_assoc, List.prefix_append_right_inj]
    rcases init_stopped hp hf.stopped with hin | ⟨tail, hbefore, htail⟩
    · obtain ⟨hnot, hkept⟩ := hf.init_inside_hardReset hin
      exact ⟨fun _ => hkept, fun hpre => absurd hpre hnot⟩
    · obtain ⟨hpre, hwritten⟩ := hf.init_after_setCfg hbefore htail hz
      exact ⟨fun hnot => absurd (hpre.trans (List.prefix_append _ _)) hnot, fun _ => hwritten⟩

end Sys2Proof.Machine
end

section
/-! A request item by item (R11, R35). In a busy state each step performs the next item and leaves the state that the
rest of the sequence goes on from, so the steps together do what `runItems` does at once. -/

namespace Sys2Proof.Machine

theorem run_succ_of_step {s t : State} (n : Nat) (h : step s = .next t) :
    Sys2Proof.core.run (n + 1) s = Sys2Proof.core.run n t := by
  have hcore : Sys2Proof.core.step s = .next t := h
  simp only [Host.Core.run, hcore]

/-- An item the sequencer can perform: a command item holds a controller command. -/
def SeqOp.Legal (item : SeqOp) : Prop := ∀ op ps, item = .cmd op ps → ∃ j, decodeWire op ps = .ok j

theorem legal_of_performs {i : Instr} {item : SeqOp} (h : Performs i item) : item.Legal := by
  rintro op ps rfl
  cases h <;> exact ⟨_, ‹_›⟩

/-- Every item, a controller command too, is performed in its step as it is inside the request. -/
theorem sequencerStep_of_legal {s : State} {item : SeqOp} {rest : List SeqOp} (hseq : s.seq = item :: rest)
    (hl : item.Legal) : sequencerStep s = .next (settle (marksFailed item) (runItem item (s.withSeq rest))) := by
  cases item
  case cmd op ps =>
    obtain ⟨j, hj⟩ := hl op ps rfl
    simp only [sequencerStep, hseq, hj]
    exact exec_command j _ op ps (decodeWire_reads op ps j hj).2
  all_goals simp only [sequencerStep, hseq]

theorem itemNext_keeps_seq (item : SeqOp) (s : State) : (itemNext item s).seq = s.seq := by cases item <;> rfl

/-- The steps of a busy state perform its sequence to the request's end, if each item that can fail is treated as the
request's failures are (R258). -/
theorem run_sequence (marks : Bool) (items : List SeqOp) (s : State) (hbusy : s.busy = true) (hseq : s.seq = items)
    (hl : ∀ item ∈ items, item.Legal)
    (hm : ∀ item ∈ items, ∀ u, itemMicros item u ≠ [] → marksFailed item = marks) :
    ∃ n, Sys2Proof.core.run n s = .next (finish marks (runItems items s)) := by
  induction items generalizing s with
  | nil =>
    have hstep : step s = .next (respond .ok s) := by
      rw [step_of_busy hbusy]
      simp only [sequencerStep, hseq]
    exact ⟨1, run_succ_of_step 0 hstep⟩
  | cons item rest ih =>
    have hstep := (step_of_busy hbusy).trans (sequencerStep_of_legal hseq (hl item List.mem_cons_self))
    rw [runItems]
    rcases runItem_cases item (s.withSeq rest) with hrun | ⟨evs, hne, hrun⟩ | ⟨evs, hrun⟩ <;> rw [hrun] at hstep ⊢
    · obtain ⟨n, hn⟩ := ih (itemNext item (s.withSeq rest)) (by simpa using hbusy) (itemNext_keeps_seq _ _)
        (fun x hx => hl x (List.mem_cons_of_mem _ hx)) fun x hx => hm x (List.mem_cons_of_mem _ hx)
      exact ⟨n + 1, (run_succ_of_step n hstep).trans hn⟩
    · rw [hm item List.mem_cons_self _ hne] at hstep
      exact ⟨1, run_succ_of_step 0 hstep⟩
    · exact ⟨1, run_succ_of_step 0 hstep⟩

/-- Only BRIGHT has a backlight action, and it has no other (assumption log 15). -/
theorem marksFailed_of_performs {i : Instr} {item : SeqOp} (h : Performs i item) (u : State)
    (hne : itemMicros item u ≠ []) : marksFailed item = marksOf i := by
  cases h
  case brightBl => exact absurd rfl hne
  all_goals rfl

/-- The end of a request clears the sequencer, so what it held before plays no part. -/
theorem finish_runItems_withSeq (marks : Bool) (items : List SeqOp) (s : State) (r : List SeqOp) :
    finish marks (runItems items (s.withSeq r)) = finish marks (runItems items s) := by
  cases items <;> rfl

theorem execute_of_ok {marks : Bool} {program : State → Except Status (List SeqOp)} {s : State} {items : List SeqOp}
    (hp : program (s.withBusy true) = .ok items) :
    execute marks program s = finish marks (runItems items (s.withBusy true)) := by
  rw [execute, hp]

theorem execute_of_error {marks : Bool} {program : State → Except Status (List SeqOp)} {s : State} {e : Status}
    (hp : program (s.withBusy true) = .error e) : execute marks program s = finish marks (.raised e (s.withBusy true)) := by
  rw [execute, hp]

/-- Settles O13: a program's items are legal and marked as its request, so `run_sequence` ends as `execute` does. -/
theorem atomicRequestIsItsSequence : Obligations.AtomicRequestIsItsSequence := by
  unfold Obligations.AtomicRequestIsItsSequence
  intro i s items hr hp
  have hperf {item : SeqOp} (hmem : item ∈ items) : Performs i item := performs_of_mem_programOf hr hp hmem
  obtain ⟨n, hn⟩ := run_sequence (marksOf i) items ((s.withBusy true).withSeq items) rfl rfl
    (fun item hmem => legal_of_performs (hperf hmem)) fun item hmem => marksFailed_of_performs (hperf hmem)
  rw [finish_runItems_withSeq, ← execute_of_ok hp] at hn
  exact ⟨n, hn.trans (exec_request i s hr).symm⟩

end Sys2Proof.Machine
end

section
/-! What a request does not read (R26, R50, R51). Writing a field that no action, no item and no check of a request looks
at commutes with everything the request does until its end. -/

namespace Sys2Proof.Machine

/-- A piece of a sequence with the states it goes on from changed; block reset's is not. -/
def Run.map (f : State → State) : Run → Run
  | .done s => .done (f s)
  | .raised e s => .raised e (f s)
  | .struck s => .struck s

/-- A write that actions, waits, block reset and the sequencer do not see. -/
structure Unread (f : State → State) : Prop where
  cut : ∀ s, (f s).cut = s.cut
  answer : ∀ s, (f s).nextAnswer = s.nextAnswer
  after : ∀ s evs, (f s).after evs = f (s.after evs)
  blockReset : ∀ s, blockReset (f s) = blockReset s
  micros : ∀ item s, itemMicros item (f s) = itemMicros item s
  withSeq : ∀ s r, (f s).withSeq r = f (s.withSeq r)
  withBusy : ∀ s b, (f s).withBusy b = f (s.withBusy b)
  withLc : ∀ s l, (f s).withLc l = f (s.withLc l)

section
variable {f : State → State} (hf : Unread f)
include hf

theorem performOne_map (m : Micro) (s : State) : performOne m (f s) = (performOne m s).map f := by
  by_cases hcut : s.cut = some 0
  · cases m <;> simp only [performOne, act, wait, hf.cut, hcut, if_true, hf.blockReset, Run.map]
  · cases m with
    | wait ms => simp only [performOne, wait, hf.cut, hcut, if_false, emit_waited, hf.after, Run.map]
    | act a =>
      simp only [performOne, act, hf.cut, hcut, if_false, hf.answer, dropAnswer_setLevel_emit, dropAnswer_emit_failed,
        hf.after]
      cases s.nextAnswer <;> rfl

theorem perform_map (ms : List Micro) (s : State) : perform ms (f s) = (perform ms s).map f := by
  induction ms generalizing s with
  | nil => rfl
  | cons m ms ih =>
    rw [perform, perform, performOne_map hf]
    cases performOne m s with
    | done t => exact ih t
    | raised e t => rfl
    | struck t => rfl

theorem runItem_map {item : SeqOp} (hitem : ∀ s, itemEffect item (f s) = f (itemEffect item s)) (s : State) :
    runItem item (f s) = (runItem item s).map f := by
  rw [runItem_eq, runItem_eq, hf.micros, perform_map hf]
  cases perform (itemMicros item s) s with
  | done t => exact congrArg Run.done (hitem t)
  | raised e t => rfl
  | struck t => rfl

theorem runItems_map {items : List SeqOp} (hitems : ∀ item ∈ items, ∀ s, itemEffect item (f s) = f (itemEffect item s))
    (s : State) : runItems items (f s) = (runItems items s).map f := by
  induction items generalizing s with
  | nil => rfl
  | cons item rest ih =>
    rw [runItems, runItems, hf.withSeq, runItem_map hf (hitems item List.mem_cons_self)]
    cases runItem item (s.withSeq rest) with
    | done t => exact ih (fun x hx => hitems x (List.mem_cons_of_mem _ hx)) t
    | raised e t => rfl
    | struck t => rfl

theorem catchError_map (marks : Bool) (e : Status) (s : State) :
    catchError marks e (f s) = f (catchError marks e s) := by
  unfold catchError
  split
  · exact hf.withLc s .failed
  · rfl

/-- A request whose checks and items do not read the written field runs alike until its end, where `P` compares the
responses. -/
theorem exec_map {P : State → State → Prop} {i : Instr} {s : State} (hr : isRequest i = true)
    (hprog : programOf i (f s) = programOf i s)
    (hitems : ∀ item, Performs i item → ∀ u, itemEffect item (f u) = f (itemEffect item u))
    (hrefl : ∀ u, P u u) (hresp : ∀ e u, P (respond e (f u)) (respond e u)) :
    ∃ t u, exec i (f s) = .next t ∧ exec i s = .next u ∧ P t u := by
  refine ⟨_, _, exec_request i (f s) hr, exec_request i s hr, ?_⟩
  have hfinish (r : Run) : P (finish (marksOf i) (r.map f)) (finish (marksOf i) r) := by
    cases r with
    | done u => exact hresp .ok u
    | raised e u =>
      rw [Run.map, finish, catchError_map hf]
      exact hresp e _
    | struck u => exact hrefl u
  cases hp : programOf i s with
  | error e =>
    rw [execute_of_error (by rw [programOf_withBusy, hprog, hp]), execute_of_error (by rw [programOf_withBusy, hp]),
      hf.withBusy]
    exact hfinish (.raised e (s.withBusy true))
  | ok items =>
    rw [execute_of_ok (by rw [programOf_withBusy, hprog, hp]), execute_of_ok (by rw [programOf_withBusy, hp]),
      hf.withBusy, runItems_map hf fun item hmem => hitems item (performs_of_mem_programOf hr hp hmem)]
    exact hfinish _

end

/-! ### The pixel source -/

/-- Another pixel source for the request. -/
def State.withPix (q : List PixCell) (s : State) : State := { s with pix := q }

theorem unread_withPix (q : List PixCell) : Unread (State.withPix q) where
  cut _ := rfl
  answer _ := rfl
  after _ _ := rfl
  blockReset _ := rfl
  micros item _ := by cases item <;> rfl
  withSeq _ _ := rfl
  withBusy _ _ := rfl
  withLc _ _ := rfl

theorem programOf_withPix (i : Instr) (q : List PixCell) (s : State) : programOf i (s.withPix q) = programOf i s := by
  cases i <;> rfl

/-- Only the forming of a frame reads the source. -/
theorem itemEffect_withPix {item : SeqOp} (h : ∀ n, item ≠ .encode n) (q : List PixCell) (s : State) :
    itemEffect item (s.withPix q) = (itemEffect item s).withPix q := by
  cases item
  case encode n => exact absurd rfl (h n)
  all_goals rfl

/-- Settles O41: only BLIT forms a frame, and the end of a request drops the source. -/
theorem onlyBlitReadsThePixels : Obligations.OnlyBlitReadsThePixels := by
  unfold Obligations.OnlyBlitReadsThePixels
  intro i s q hr hnb
  obtain ⟨t, u, ht, hu, rfl⟩ := exec_map (P := Eq) (unread_withPix q) hr (programOf_withPix i q s)
    (fun item hperf => itemEffect_withPix (fun n hn => by
      subst hn
      cases hperf
      exact hnb _ _ rfl) q) (fun _ => rfl) fun _ _ => rfl
  exact ht.trans hu.symm

/-! ### The stored orientation -/

/-- Another stored orientation. -/
def State.withOrient (o : Orientation) (s : State) : State := { s with cfgOrient := o }

theorem unread_withOrient (o : Orientation) : Unread (State.withOrient o) where
  cut _ := rfl
  answer _ := rfl
  after _ _ := rfl
  blockReset _ := rfl
  micros item _ := by cases item <;> rfl
  withSeq _ _ := rfl
  withBusy _ _ := rfl
  withLc _ _ := rfl

/-- Only a configuration write overwrites it. -/
theorem itemEffect_withOrient {item : SeqOp} (h : ∀ o w ht, item ≠ .setCfg o w ht) (o : Orientation) (s : State) :
    itemEffect item (s.withOrient o) = (itemEffect item s).withOrient o := by
  cases item
  case setCfg o' w ht => exact absurd rfl (h o' w ht)
  all_goals rfl

/-- The observations and registers that O40 compares. -/
def SameOutcome (u t : State) : Prop :=
  u.trace = t.trace ∧ u.responses = t.responses ∧ u.lc = t.lc ∧ u.rstLvl = t.rstLvl ∧ u.dcLvl = t.dcLvl

theorem respond_withOrient (e : Status) (o : Orientation) (s : State) :
    SameOutcome (respond e (s.withOrient o)) (respond e s) := by
  by_cases hcut : s.cut = some 0
  · rw [respond_cut hcut, respond_cut (s := s.withOrient o) hcut]
    exact ⟨rfl, rfl, rfl, rfl, rfl⟩
  · rw [respond_uncut hcut, respond_uncut (s := s.withOrient o) hcut]
    exact ⟨rfl, rfl, rfl, rfl, rfl⟩

/-- Settles O40: BLIT's checks and items take their orientation from its path. -/
theorem blitIgnoresTheStoredOrientation : Obligations.BlitIgnoresTheStoredOrientation := by
  unfold Obligations.BlitIgnoresTheStoredOrientation
  intro s t u cols rows o ht hu
  obtain ⟨u', t', hu', ht', hsame⟩ := exec_map (P := SameOutcome) (s := s) (unread_withOrient o)
    (i := .blit cols rows) rfl rfl
    (fun item hperf => itemEffect_withOrient (fun o w h hn => by
      subst hn
      cases hperf) o) (fun _ => ⟨rfl, rfl, rfl, rfl, rfl⟩) fun e u => respond_withOrient e o u
  obtain rfl : u' = u := Host.Outcome.next.inj (hu'.symm.trans hu)
  obtain rfl : t' = t := Host.Outcome.next.inj (ht'.symm.trans ht)
  exact hsame

end Sys2Proof.Machine
end
